-- ==== Sys2Proof/Word.lean ====
section
/-! DEFINITION. The widths of the machine: bytes, control-register words, addresses, and byte strings of a fixed length
(00_scope.md R6, R13, R15). A byte string is a vector of bytes, byte 0 first; only what the spec reads as bits (a register
word, an address, a byte) is a bit vector. -/

namespace Sys2Proof

/-- One byte, 0x00 to 0xFF (00_scope.md R13). -/
abbrev Byte := BitVec 8

/-- One control-register word; bit 0 is the least significant (00_scope.md R15). -/
abbrev Word := BitVec 32

/-- A value of "n bytes": `b[0], …, b[n-1]` (00_scope.md R13). -/
abbrev Bytes (n : Nat) := Vector Byte n

/-- A cipher block, a block-cipher key, a salt, a MAC or an ACR value: 8 bytes (00_scope.md R6). -/
abbrev Block := Bytes 8

/-- A DMEM address as an operand register holds it (10_state.md R27). -/
abbrev DmemAddr := BitVec 12

/-- A byte count as LEN holds it (10_state.md R28). -/
abbrev Count := BitVec 13

/-- A host bus address, 0x0000 to 0x1FFF (20_memory.md R60). -/
abbrev BusAddr := BitVec 13

end Sys2Proof
end

