-- ==== Sys2Proof/Syntax.lean ====
section
/-! DEFINITION. The commands: the 32-bit command word's format (30_encoding.md R90) and one constructor per row of
spec/opcode_table.json (30_encoding.md R93). -/

namespace Sys2Proof

/-- The four fields of a command word (30_encoding.md R90). -/
structure CmdWord where
  /-- bits [31:8], must be zero -/
  rsvd : BitVec 24
  /-- bit [7] -/
  saltEn : Bool
  /-- bit [6] -/
  mode : Bool
  /-- bits [5:0] -/
  op : BitVec 6
deriving DecidableEq, Repr

/-- The 14 commands (30_encoding.md R93). A command word has no immediate and no register field (R94), so no constructor
has an argument. -/
inductive Instr
  | cksum
  | norm
  | blkD
  | blkE
  | tcbcD
  | tcbcE
  | macV
  | macG
  | macVS
  | macGS
  | acr
  | hsrst
  | hsstep
  | hsrun
deriving DecidableEq, Repr

end Sys2Proof
end

