-- ==== Sys2Proof/WellFormed.lean ====
section
/-! DEFINITION. Which command words are well formed: the four classes of illegal words of 30_encoding.md R96, one check each.
An `Instr` has no operand, so every `Instr` is well formed; what can be ill formed is a command word. -/

namespace Sys2Proof

/-- No word with RSVD ≠ 0 is legal (30_encoding.md R96). -/
def CmdWord.rsvdOk (c : CmdWord) : Bool := c.rsvd == 0

/-- OP = 0x00 and OP in 0x0A to 0x3F are illegal (30_encoding.md R92, R96, R97). -/
def CmdWord.opOk (c : CmdWord) : Bool := decide (1 ≤ c.op.toNat ∧ c.op.toNat ≤ 9)

/-- MODE = 1 is legal with BLK, TCBC and MAC only (30_encoding.md R96). -/
def CmdWord.modeOk (c : CmdWord) : Bool := !c.mode || decide (3 ≤ c.op.toNat ∧ c.op.toNat ≤ 5)

/-- SALT_EN = 1 is legal with MAC only (30_encoding.md R96). -/
def CmdWord.saltOk (c : CmdWord) : Bool := !c.saltEn || decide (c.op.toNat = 5)

/-- A well-formed command word passes all four checks (30_encoding.md R96). -/
def CmdWord.wf (c : CmdWord) : Bool := c.rsvdOk && c.opOk && c.modeOk && c.saltOk

end Sys2Proof
end

