-- ==== Sys2Proof/Decode.lean ====
section
/-! DEFINITION. Decoding a command word, total on all 2^32 words, rejecting by name (30_encoding.md R91, R96); after it the
encoder (R93). -/

namespace Sys2Proof

/-- Why a word is no command: the classes of 30_encoding.md R96. Each of them is the one command error E_ILLEGAL. -/
inductive Illegal
  /-- RSVD ≠ 0 -/
  | reservedBits
  /-- OP = 0x00, or OP in 0x0A to 0x3F -/
  | reservedOp
  /-- MODE = 1 where the operation has none -/
  | modeBit
  /-- SALT_EN = 1 with OP ≠ 0x05 -/
  | saltBit
deriving DecidableEq, Repr

/-- The fields of a word (30_encoding.md R90, R91). -/
def CmdWord.ofWord (w : Word) : CmdWord where
  rsvd := w.extractLsb' 8 24
  saltEn := w.getLsbD 7
  mode := w.getLsbD 6
  op := w.extractLsb' 0 6

/-- The word with these fields (30_encoding.md R90: `RRRRRRRR RRRRRRRR RRRRRRRR SMOOOOOO`). -/
def CmdWord.toWord (c : CmdWord) : Word :=
  ((c.rsvd ++ BitVec.ofBool c.saltEn) ++ BitVec.ofBool c.mode) ++ c.op

/-- The row of a command word's fields, where RSVD = 0 (30_encoding.md R91, R92, R93): OP picks the operation, MODE and
SALT_EN its row. -/
def decodeRow (op : Nat) (mode saltEn : Bool) : Except Illegal Instr :=
  match op, mode, saltEn with
  | 0x01, false, false => .ok .cksum
  | 0x02, false, false => .ok .norm
  | 0x03, false, false => .ok .blkD
  | 0x03, true, false => .ok .blkE
  | 0x04, false, false => .ok .tcbcD
  | 0x04, true, false => .ok .tcbcE
  | 0x05, false, false => .ok .macV
  | 0x05, true, false => .ok .macG
  | 0x05, false, true => .ok .macVS
  | 0x05, true, true => .ok .macGS
  | 0x06, false, false => .ok .acr
  | 0x07, false, false => .ok .hsrst
  | 0x08, false, false => .ok .hsstep
  | 0x09, false, false => .ok .hsrun
  | op, _, saltEn =>
    if op = 0 ∨ 9 < op then .error .reservedOp
    else if saltEn then .error .saltBit
    else .error .modeBit

/-- Decoding a command word (30_encoding.md R91): RSVD must be zero and the other fields must be those of a row. -/
def decode (w : Word) : Except Illegal Instr :=
  let c := CmdWord.ofWord w
  if c.rsvd ≠ 0 then .error .reservedBits
  else decodeRow c.op.toNat c.mode c.saltEn

/-- The fields of each command, column by column of the table of 30_encoding.md R93. -/
def Instr.fields : Instr → CmdWord
  | .cksum => { rsvd := 0, saltEn := false, mode := false, op := 0x01 }
  | .norm => { rsvd := 0, saltEn := false, mode := false, op := 0x02 }
  | .blkD => { rsvd := 0, saltEn := false, mode := false, op := 0x03 }
  | .blkE => { rsvd := 0, saltEn := false, mode := true, op := 0x03 }
  | .tcbcD => { rsvd := 0, saltEn := false, mode := false, op := 0x04 }
  | .tcbcE => { rsvd := 0, saltEn := false, mode := true, op := 0x04 }
  | .macV => { rsvd := 0, saltEn := false, mode := false, op := 0x05 }
  | .macG => { rsvd := 0, saltEn := false, mode := true, op := 0x05 }
  | .macVS => { rsvd := 0, saltEn := true, mode := false, op := 0x05 }
  | .macGS => { rsvd := 0, saltEn := true, mode := true, op := 0x05 }
  | .acr => { rsvd := 0, saltEn := false, mode := false, op := 0x06 }
  | .hsrst => { rsvd := 0, saltEn := false, mode := false, op := 0x07 }
  | .hsstep => { rsvd := 0, saltEn := false, mode := false, op := 0x08 }
  | .hsrun => { rsvd := 0, saltEn := false, mode := false, op := 0x09 }

/-- The command word of a command (30_encoding.md R93). -/
def encode (i : Instr) : Word := i.fields.toWord

/-- The instruction the decoder reads from a word of `nbits` bits numbered as spec/opcode_table.json numbers them. A command
is one 32-bit word moved whole, with no byte lanes (20_memory.md R67), so the word is the bits themselves; the bits from
`nbits` up are zero. -/
def decodeTableWord (nbits w : Nat) : Option Instr :=
  match decode (BitVec.ofNat 32 (w % 2 ^ nbits)) with
  | .ok i => some i
  | .error _ => none

end Sys2Proof
end

