-- ==== Sys2Proof/Machine/Bytes.lean ====
section
/-! DEFINITION. Byte strings (00_scope.md R13) and the integers read from them (00_scope.md R14). Every operation is a list
operation under a vector of fixed length, so the kernel can evaluate it. -/

namespace Sys2Proof.Machine

/-- `0^n`: n zero bytes (00_scope.md R13). -/
def zeros (n : Nat) : Bytes n := ⟨(List.replicate n 0).toArray, by simp⟩

/-- `a || b`: concatenation (00_scope.md R13). -/
def cat {m n : Nat} (a : Bytes m) (b : Bytes n) : Bytes (m + n) :=
  ⟨(a.toList ++ b.toList).toArray, by simp⟩

/-- `b[i : i + k]`: the half-open slice of `k` bytes from byte `i` (00_scope.md R13). -/
def slice {n : Nat} (b : Bytes n) (i k : Nat) (h : i + k ≤ n := by decide) : Bytes k :=
  ⟨((b.toList.drop i).take k).toArray, by simp; omega⟩

/-- `b[i : i + k] <- v`: write a slice, leaving the other bytes unchanged (00_scope.md R16). -/
def setSlice {n k : Nat} (b : Bytes n) (i : Nat) (v : Bytes k) (h : i + k ≤ n := by decide) : Bytes n :=
  ⟨(b.toList.take i ++ v.toList ++ b.toList.drop (i + k)).toArray, by simp; omega⟩

/-- `a ⊕ b` on two byte strings of one length (00_scope.md R14). -/
def xorBytes {n : Nat} (a b : Bytes n) : Bytes n :=
  ⟨(List.zipWith (· ^^^ ·) a.toList b.toList).toArray, by simp⟩

/-- A vector with one more element in front. -/
def vcons {α : Type} {n : Nat} (x : α) (v : Vector α n) : Vector α (n + 1) :=
  ⟨(x :: v.toList).toArray, by simp⟩

/-- `be64(b) = Σ b[i]·256^(7-i)`: byte 0 is the most significant (00_scope.md R14). -/
def be64 (b : Block) : Nat := b.toList.foldl (fun acc x => acc * 256 + x.toNat) 0

/-- `tob8(v)`, the inverse of `be64` on `0 ≤ v < 2^64` (00_scope.md R14). -/
def tob8 (v : Nat) : Block :=
  #v[BitVec.ofNat 8 (v / 256 ^ 7), BitVec.ofNat 8 (v / 256 ^ 6), BitVec.ofNat 8 (v / 256 ^ 5), BitVec.ofNat 8 (v / 256 ^ 4),
     BitVec.ofNat 8 (v / 256 ^ 3), BitVec.ofNat 8 (v / 256 ^ 2), BitVec.ofNat 8 (v / 256), BitVec.ofNat 8 v]

/-- The first half of a 16-byte string: `b[0:8]`. -/
def lo8 (b : Bytes 16) : Block := slice b 0 8

/-- The second half of a 16-byte string: `b[8:16]`. -/
def hi8 (b : Bytes 16) : Block := slice b 8 8

/-- Two blocks as one 16-byte string. -/
def cat16 (a b : Block) : Bytes 16 := cat a b

end Sys2Proof.Machine
end

