-- ==== Sys2Proof/Config.lean ====
section
/-! DEFINITION. What the spec leaves to the implementation. The opaque primitives and the three readings are the parameters of
00_scope.md R7 to R11, gathered in `Params`; every function of the model takes them as an argument, and the machine itself
uses `Config.params`, a constant with no body. The free values have no body either. -/

namespace Sys2Proof

/-- P_MAC4_SEL (00_scope.md R11): which 4 bytes of the MAC handshake step 2 compares. -/
inductive Mac4Sel
  /-- MAC bytes 4 to 7, the spec's default -/
  | low
  /-- MAC bytes 0 to 3 -/
  | high
deriving DecidableEq, Repr, Inhabited

/-- P_XCHG (00_scope.md R11): the nonce field interchange of step 4. -/
inductive Xchg
  /-- both fields are exchanged, the spec's default -/
  | swap
  /-- the nonce field alone is written -/
  | copy
deriving DecidableEq, Repr, Inhabited

/-- P_NORM_REPACK (00_scope.md R11): the byte order in which NORM re-packs its 2-byte fields. -/
inductive NormRepack
  /-- as read, the spec's default -/
  | be
  /-- the two bytes exchanged -/
  | le
deriving DecidableEq, Repr, Inhabited

/-- The parameters a model of XTC takes (00_scope.md R7 to R11). The three readings carry the spec's defaults. -/
structure Params where
  /-- BlockEnc and BlockDec (R7), key by key a permutation of the blocks and its inverse: exactly the pairs that meet R7's
  one law `BlockDec(k, BlockEnc(k, x)) = x` (log 5). -/
  cipher : Block → Equiv.Perm Block
  /-- ParveEcb(k, sbox, d), on `n` blocks (R8) -/
  parveEcb : (n : Nat) → Block → Bytes 256 → Bytes (8 * n) → Bytes (8 * n)
  /-- ParveCbcMac(k, sbox, iv, ref) (R8) -/
  parveCbcMac : Block → Bytes 256 → Bytes 16 → Bytes 128 → Block
  /-- ChainAndSum(cd, ab, ref) (R9) -/
  chainAndSum : Block → Block → Bytes 128 → Block
  /-- ContentHash(ct, pt) (R10) -/
  contentHash : Bytes 32 → Bytes 32 → Bytes 16
  /-- P_MAC4_SEL (R11) -/
  mac4Sel : Mac4Sel := .low
  /-- P_XCHG (R11) -/
  xchg : Xchg := .swap
  /-- P_NORM_REPACK (R11) -/
  normRepack : NormRepack := .be
deriving Inhabited

/-- The parameters of the machine at hand. Nothing is known of them but their types (00_scope.md R7 to R11; log 5, 6, 7). -/
opaque Config.params : Params

/-- FREE VALUE: the byte that the `n`-th free draw gives (20_memory.md R65; log 3). -/
opaque Config.freeByte : Nat → Byte

/-- XTC_BASE (60_exceptions.md R272; log 12). -/
opaque Config.xtcBase : Nat

/-- XTC_IRQ_LINE (60_exceptions.md R272; log 12). -/
opaque Config.xtcIrqLine : Nat

/-- Where a bus address lies in the platform's address space: "Every address in this spec is relative to `XTC_BASE`, which the
host adds to it" (60_exceptions.md R272). -/
def Config.platformAddress (a : BusAddr) : Nat := Config.xtcBase + a.toNat

end Sys2Proof
end

