-- ==== Sys2Proof/Machine/State.lean ====
section
/-! DEFINITION. The machine's state, all of it (10_state.md R23 to R46), its reset value, and the reasons a step can stop. -/

namespace Sys2Proof.Machine

/-! ## Memory -/

/-- DMEM holds 4096 bytes (00_scope.md R6; 10_state.md R45). -/
def dmemSize : Nat := 4096

/-- DMEM: the written bytes, by address. An address that is not listed is unwritten and has no value (20_memory.md R65). -/
abbrev Memory := List Host.Cell

/-- The canonical form: addresses strictly rising and inside DMEM. No entry can equal what an unlisted address reads as, since
an unlisted address has no value. -/
abbrev Memory.wf (m : Memory) : Prop :=
  m.Pairwise (fun p q => p.1 < q.1) ∧ ∀ p ∈ m, p.1 < dmemSize

/-! ## Control registers -/

/-- STATUS.ERRCODE: the codes 0 to 4 of 60_exceptions.md R260; codes 5 to 15 are never written. -/
inductive ErrCode
  /-- 0: no error -/
  | none
  /-- 1: LATCH is not a legal word -/
  | illegal
  /-- 2: the handshake sequencer is in a terminal state -/
  | state
  /-- 3: LEN is not a multiple of 8 -/
  | len
  /-- 4: a region does not fit in DMEM -/
  | range
deriving DecidableEq, Repr

/-- STATUS (10_state.md R25); its reserved bits have no storage and read 0. -/
structure Status where
  busy : Bool
  done : Bool
  err : Bool
  result : Bool
  ovr : Bool
  berr : Bool
  errcode : ErrCode
deriving DecidableEq, Repr

/-! ## Session registers -/

/-- HS_STATE: the eight codes of 10_state.md R41, in order. -/
inductive HsState
  | init
  | identified
  | challenged
  | responseReceived
  | verified1
  | responseVerified1
  | complete
  | failed
deriving DecidableEq, Repr

/-- FAIL_KIND: the codes 0 to 4 of 10_state.md R42, in order; codes 5 to 7 are never written. -/
inductive FailKind
  | noFailure
  | checksumMismatch
  | macMismatch
  | acrMismatch
  | nonceMismatch
deriving DecidableEq, Repr

/-- The session registers (10_state.md R40 to R43). FAIL_AT holds an HS_STATE code (R43). -/
structure Session where
  nonce : Bytes 16
  cert : Bytes 8
  expacr : Bytes 8
  renc : Bytes 16
  rsenc : Bytes 16
  usbr : Bytes 16
  chash : Bytes 16
  desc : Bytes 32
  hsState : HsState
  failKind : FailKind
  failAt : HsState
deriving DecidableEq, Repr

/-! ## Events

The host's transactions, the engine's steps and hardware resets lie in one total order (20_memory.md R74). -/

/-- One host transaction: a read or a write of width 8 or 32 (20_memory.md R60). -/
inductive BusOp
  | read8 (a : BusAddr)
  | read32 (a : BusAddr)
  | write8 (a : BusAddr) (v : Byte)
  | write32 (a : BusAddr) (w : Word)
deriving DecidableEq, Repr

/-- One event of the total order (20_memory.md R74; 70_reset_and_hazards.md R290). -/
inductive Event
  /-- a host transaction -/
  | bus (op : BusOp)
  /-- the command engine's turn -/
  | engine
  /-- a hardware reset -/
  | hardReset
deriving DecidableEq, Repr

/-- What the last host read returned. -/
inductive ReadData
  | none
  | byte (v : Byte)
  | word (w : Word)
deriving DecidableEq, Repr

/-! ## State -/

/-- The whole machine. The last three fields are the model's own (log 1, 3, 10, 11). -/
structure State where
  /-- STATUS (10_state.md R25) -/
  status : Status
  /-- CTRL.IE (10_state.md R26) -/
  ie : Bool
  /-- SRC.ADDR (10_state.md R27) -/
  src : DmemAddr
  /-- DST.ADDR (10_state.md R27) -/
  dst : DmemAddr
  /-- KEY.ADDR (10_state.md R27) -/
  key : DmemAddr
  /-- AUX.ADDR (10_state.md R27) -/
  aux : DmemAddr
  /-- LEN.COUNT (10_state.md R28) -/
  len : Count
  /-- LATCH (10_state.md R30) -/
  latch : Word
  /-- the session registers (10_state.md R40 to R43) -/
  session : Session
  /-- DMEM (10_state.md R45) -/
  dmem : Memory
  /-- the events still to come, in their order (20_memory.md R74) -/
  schedule : List Event
  /-- what the last host read returned -/
  readData : ReadData
  /-- how many free values were drawn so far -/
  draws : Nat
deriving DecidableEq, Repr

/-- STATUS after a reset: every field 0 (10_state.md R46). -/
def Status.reset : Status where
  busy := false
  done := false
  err := false
  result := false
  ovr := false
  berr := false
  errcode := .none

/-- The all-zero session of 10_state.md R46 and 43_handshake.md R232. -/
def Session.reset : Session where
  nonce := #v[0, 0, 0, 0, 0, 0, 0, 0, 0, 0, 0, 0, 0, 0, 0, 0]
  cert := #v[0, 0, 0, 0, 0, 0, 0, 0]
  expacr := #v[0, 0, 0, 0, 0, 0, 0, 0]
  renc := #v[0, 0, 0, 0, 0, 0, 0, 0, 0, 0, 0, 0, 0, 0, 0, 0]
  rsenc := #v[0, 0, 0, 0, 0, 0, 0, 0, 0, 0, 0, 0, 0, 0, 0, 0]
  usbr := #v[0, 0, 0, 0, 0, 0, 0, 0, 0, 0, 0, 0, 0, 0, 0, 0]
  chash := #v[0, 0, 0, 0, 0, 0, 0, 0, 0, 0, 0, 0, 0, 0, 0, 0]
  desc := #v[0, 0, 0, 0, 0, 0, 0, 0, 0, 0, 0, 0, 0, 0, 0, 0, 0, 0, 0, 0, 0, 0, 0, 0, 0, 0, 0, 0, 0, 0, 0, 0]
  hsState := .init
  failKind := .noFailure
  failAt := .init

/-- The machine after a hardware reset (10_state.md R46; 70_reset_and_hazards.md R290). The model's own three fields start
empty (log 11). -/
def State.reset : State where
  status := Status.reset
  ie := false
  src := 0
  dst := 0
  key := 0
  aux := 0
  len := 0
  latch := 0
  session := Session.reset
  dmem := []
  schedule := []
  readData := .none
  draws := 0

/-! ## How a step can stop -/

/-- Why a command body ended without a result. It never leaves a meaning: `finish` (Machine/Ops.lean) turns it into the
command-error completion or into a fault. -/
inductive Abort
  /-- `raise CmdError(code)` (00_scope.md R16) -/
  | cmdError (e : ErrCode)
  /-- a `MemRead` met this unwritten byte (20_memory.md R65) -/
  | unwritten (address : Nat)
deriving DecidableEq, Repr

/-- The one fault of the model. -/
inductive Fault
  /-- `UnwrittenRead` of 20_memory.md R65: raised by a command whose `MemRead` includes an unwritten byte; it names the
  command and the address. SAFE: the hardware goes on with unspecified values, the model stops. -/
  | unwrittenRead (command : Instr) (address : Nat)
deriving DecidableEq, Repr

/-- The refusals of the model. No arm of `exec` uses one: every command has its meaning. -/
inductive Refusal
  /-- Raised by an arm of `exec` whose command has no meaning yet; none is left. SAFE: the model stops. -/
  | notModelled (mnemonic : String)
deriving DecidableEq, Repr

end Sys2Proof.Machine
end

