-- ==== Sys2Proof/Machine/Flags.lean ====
section
/-! DEFINITION. The flags and the words the control registers read as: STATUS (10_state.md R25), CTRL (R26), HSSTAT (R29), and
the interrupt output (60_exceptions.md R266). Every way a flag changes is one definition here. -/

namespace Sys2Proof.Machine

/-! ## Codes -/

/-- The ERRCODE codes (60_exceptions.md R260). -/
def errCodeBits : ErrCode → BitVec 4
  | .none => 0
  | .illegal => 1
  | .state => 2
  | .len => 3
  | .range => 4

/-- The HS_STATE codes (10_state.md R41). -/
def hsStateBits : HsState → BitVec 3
  | .init => 0
  | .identified => 1
  | .challenged => 2
  | .responseReceived => 3
  | .verified1 => 4
  | .responseVerified1 => 5
  | .complete => 6
  | .failed => 7

/-- The FAIL_KIND codes (10_state.md R42). -/
def failKindBits : FailKind → BitVec 3
  | .noFailure => 0
  | .checksumMismatch => 1
  | .macMismatch => 2
  | .acrMismatch => 3
  | .nonceMismatch => 4

/-! ## Register words -/

/-- STATUS as it reads: ERRCODE at [11:8], BERR, OVR, RESULT, ERR, DONE, BUSY at [5] to [0], the other bits 0
(10_state.md R25). -/
def statusWord (t : Status) : Word :=
  (((((((0 : BitVec 20) ++ errCodeBits t.errcode) ++ (0 : BitVec 2)) ++ BitVec.ofBool t.berr) ++ BitVec.ofBool t.ovr) ++
    BitVec.ofBool t.result) ++ BitVec.ofBool t.err) ++ (BitVec.ofBool t.done ++ BitVec.ofBool t.busy)

/-- CTRL as it reads: IE at [0]; SRST and the other bits read 0 (10_state.md R26). -/
def ctrlWord (ie : Bool) : Word := (0 : BitVec 31) ++ BitVec.ofBool ie

/-- HSSTAT as it reads: FAIL_AT at [10:8], FAIL_KIND at [6:4], HS_STATE at [2:0], the other bits 0 (10_state.md R29). -/
def hsstatWord (S : Session) : Word :=
  (((((0 : BitVec 21) ++ hsStateBits S.failAt) ++ (0 : BitVec 1)) ++ failKindBits S.failKind) ++ (0 : BitVec 1)) ++
    hsStateBits S.hsState

/-! ## How flags change -/

/-- Acceptance of a CMD write: BUSY set; DONE, ERR, RESULT and ERRCODE cleared; OVR and BERR kept (10_state.md R24, R25;
70_reset_and_hazards.md R296). -/
def acceptFlags (t : Status) : Status :=
  { t with busy := true, done := false, err := false, result := false, errcode := .none }

/-- Completion of a command without error (60_exceptions.md R264). -/
def completeFlags (t : Status) : Status := { t with busy := false, done := true }

/-- Completion of a command with an error: RESULT keeps its value (60_exceptions.md R261). -/
def errorFlags (e : ErrCode) (t : Status) : Status :=
  { t with errcode := e, err := true, busy := false, done := true }

/-- RESULT as CKSUM, HSSTEP and HSRUN compute it (10_state.md R32). -/
def resultFlag (r : Bool) (t : Status) : Status := { t with result := r }

/-- A host access refused because BUSY = 1 (10_state.md R25; 20_memory.md R76). -/
def ovrFlag (t : Status) : Status := { t with ovr := true }

/-- A host access refused for its width or alignment (10_state.md R25; 20_memory.md R61). -/
def berrFlag (t : Status) : Status := { t with berr := true }

/-- A host write of `w` to STATUS clears DONE, ERR, OVR and BERR where `w` has a 1, and nothing else (10_state.md R25). -/
def clearFlags (w : Word) (t : Status) : Status :=
  { t with
    done := t.done && !w.getLsbD 1
    err := t.err && !w.getLsbD 2
    ovr := t.ovr && !w.getLsbD 4
    berr := t.berr && !w.getLsbD 5 }

/-- IRQ = CTRL.IE ∧ STATUS.DONE, a level (60_exceptions.md R266). -/
def irq (s : State) : Bool := s.ie && s.status.done

end Sys2Proof.Machine
end

