-- ==== Sys2Proof/Machine/Ops.lean ====
section
/-! DEFINITION. The named operations over memory, registers and events: reading and writing DMEM (20_memory.md R63, R64, R65),
the field updates, accepting a command (10_state.md R24), completing one (60_exceptions.md R264), taking a command error
(60_exceptions.md R261), and the two resets (70_reset_and_hazards.md R290, R292). -/

namespace Sys2Proof.Machine

/-! ## DMEM -/

/-- The value of one DMEM byte, or none where it is unwritten (20_memory.md R65). -/
def memGet? : Memory → Nat → Option Byte
  | [], _ => none
  | (x, v) :: m, a => if x = a then some v else memGet? m a

/-- Write one DMEM byte; the byte becomes written (20_memory.md R64, R65). Keeps the canonical form. -/
def memSet : Memory → Nat → Byte → Memory
  | [], a, b => [(a, b)]
  | (x, v) :: m, a, b =>
    if a < x then (a, b) :: (x, v) :: m
    else if a = x then (a, b) :: m
    else (x, v) :: memSet m a b

/-- The command engine's read of one byte: an unwritten byte aborts with its address (20_memory.md R65). -/
def memReadByte (m : Memory) (a : Nat) : Except Abort Byte :=
  match memGet? m a with
  | some b => .ok b
  | none => .error (.unwritten a)

/-- `MemRead(a, n)` (20_memory.md R63). The bytes are read in rising order, so an abort names the first unwritten one
(log 4). -/
def memRead (m : Memory) (a : Nat) : (n : Nat) → Except Abort (Bytes n)
  | 0 => .ok #v[]
  | n + 1 =>
    match memReadByte m a with
    | .error e => .error e
    | .ok b =>
      match memRead m (a + 1) n with
      | .error e => .error e
      | .ok v => .ok (vcons b v)

/-- `MemRead(a, 8n)` as a string of n blocks (20_memory.md R63). -/
def memReadBlocks (m : Memory) (a : Nat) : (n : Nat) → Except Abort (Vector Block n)
  | 0 => .ok #v[]
  | n + 1 =>
    match memRead m a 8 with
    | .error e => .error e
    | .ok b =>
      match memReadBlocks m (a + 8) n with
      | .error e => .error e
      | .ok v => .ok (vcons b v)

/-- Write a list of bytes from address `a` on (20_memory.md R64). -/
def memWriteList (m : Memory) (a : Nat) : List Byte → Memory
  | [] => m
  | b :: bs => memWriteList (memSet m a b) (a + 1) bs

/-- `MemWrite(a, n, v)` (20_memory.md R64). -/
def memWrite {n : Nat} (m : Memory) (a : Nat) (v : Bytes n) : Memory := memWriteList m a v.toList

/-- The bytes of a string of blocks, in order. -/
def blockBytes (bs : List Block) : List Byte := bs.flatMap (fun b => b.toList)

/-- `MemWrite(a, 8n, v)` of a string of n blocks (20_memory.md R64). -/
def memWriteBlocks {n : Nat} (m : Memory) (a : Nat) (v : Vector Block n) : Memory :=
  memWriteList m a (blockBytes v.toList)

/-! ## Field updates -/

/-- STATUS replaced. -/
def withStatus (t : Status) (s : State) : State := { s with status := t }

/-- DMEM replaced. -/
def withDmem (m : Memory) (s : State) : State := { s with dmem := m }

/-- The session registers replaced. -/
def withSession (S : Session) (s : State) : State := { s with session := S }

/-- RESULT written. -/
def withResult (r : Bool) (s : State) : State := { s with status := resultFlag r s.status }

/-- The events still to come replaced. -/
def withSchedule (es : List Event) (s : State) : State := { s with schedule := es }

/-- What a host read returned. -/
def withReadData (d : ReadData) (s : State) : State := { s with readData := d }

/-- One more free value drawn. -/
def countDraw (s : State) : State := { s with draws := s.draws + 1 }

/-- STATUS.OVR set (20_memory.md R76). -/
def setOvr (s : State) : State := { s with status := ovrFlag s.status }

/-- STATUS.BERR set (20_memory.md R61). -/
def setBerr (s : State) : State := { s with status := berrFlag s.status }

/-! ## A command's life -/

/-- A CMD write of `w` is accepted: LATCH holds it and BUSY is set (10_state.md R24). -/
def acceptCommand (w : Word) (s : State) : State :=
  { s with latch := w, status := acceptFlags s.status }

/-- The command completes without error (60_exceptions.md R264). -/
def complete (s : State) : State := { s with status := completeFlags s.status }

/-- TAKING A COMMAND ERROR (60_exceptions.md R261): ERRCODE, ERR, BUSY and DONE are written and nothing else. XTC has no
trap: no state is saved, no mode changes and control goes nowhere (60_exceptions.md R267). -/
def takeError (e : ErrCode) (s : State) : State := { s with status := errorFlags e s.status }

/-- THE RETURN from a command error is the host's: a write to STATUS clears the report (60_exceptions.md R268; 10_state.md
R25). -/
def clearReport (w : Word) (s : State) : State := { s with status := clearFlags w s.status }

/-- The end of a command `i` that started in `s` (60_exceptions.md R261, R264; 20_memory.md R65): its effect and its
completion, or the command error taken in the state it started from, or the model fault. -/
def finish (i : Instr) (s : State) (r : Except Abort State) : Host.Outcome State Fault Refusal :=
  match r with
  | .ok t => .next (complete t)
  | .error (.cmdError e) => .next (takeError e s)
  | .error (.unwritten a) => .fault (.unwrittenRead i a)

/-- The engine's decode of LATCH (30_encoding.md R91). -/
def decodeLatch (s : State) : Except Illegal Instr := decode s.latch

/-! ## Resets -/

/-- A soft reset (70_reset_and_hazards.md R292): everything but DMEM takes its reset value; a pending command is abandoned.
The model's own fields are not the hardware's and stay (log 11). -/
def softReset (s : State) : State :=
  { State.reset with dmem := s.dmem, schedule := s.schedule, readData := s.readData, draws := s.draws }

/-- A hardware reset (70_reset_and_hazards.md R290): as the soft one, and every DMEM byte becomes unwritten (log 11). -/
def hardReset (s : State) : State :=
  { State.reset with schedule := s.schedule, readData := s.readData, draws := s.draws }

end Sys2Proof.Machine
end

