-- ==== Sys2Proof/Machine/Bus.lean ====
section
/-! DEFINITION. The host bus (20_memory.md R60 to R62, R70, R76): what each host transaction reads and changes, and the control
registers as the host sees them (10_state.md R23 to R29). -/

namespace Sys2Proof.Machine

/-! ## The address map -/

/-- The control registers (10_state.md R23). -/
inductive CtrlReg
  | cmd
  | status
  | ctrl
  | src
  | dst
  | key
  | aux
  | len
  | hsstat
  /-- 0x1024 to 0x103C: reads 0, writes ignored (10_state.md R29) -/
  | reserved
deriving DecidableEq, Repr

/-- What a bus address selects (20_memory.md R60). -/
inductive BusTarget
  /-- DMEM byte `a` -/
  | dmem (a : Nat)
  /-- a control register -/
  | creg (r : CtrlReg)
  /-- byte `i` of the session window -/
  | window (i : Nat)
  /-- reads 0, writes ignored -/
  | reserved
deriving DecidableEq, Repr

/-- The control register whose 4 addresses include `a` (10_state.md R23). -/
def ctrlReg (a : Nat) : CtrlReg :=
  match (a - 0x1000) / 4 with
  | 0 => .cmd
  | 1 => .status
  | 2 => .ctrl
  | 3 => .src
  | 4 => .dst
  | 5 => .key
  | 6 => .aux
  | 7 => .len
  | 8 => .hsstat
  | _ => .reserved

/-- The address map of 20_memory.md R60. A transaction's target is decided by its address (log 9). -/
def busTarget (addr : BusAddr) : BusTarget :=
  let a := addr.toNat
  if a < 0x1000 then .dmem a
  else if a < 0x1040 then .creg (ctrlReg a)
  else if a < 0x1100 then .reserved
  else if a < 0x1180 then .window (a - 0x1100)
  else .reserved

/-! ## What the host reads -/

/-- The 128-byte session window (20_memory.md R62). -/
def sessionWindow (S : Session) : Bytes 128 :=
  cat (cat (cat S.nonce S.cert : Bytes 24) (cat S.expacr S.renc : Bytes 24) : Bytes 48)
    (cat (cat S.rsenc S.usbr : Bytes 32) (cat S.chash S.desc : Bytes 48) : Bytes 80)

/-- Byte `i` of the session window (20_memory.md R62). -/
def windowByte (S : Session) (i : Nat) : Byte := (sessionWindow S).toList.getD i 0

/-- A 32-bit read of a control register (10_state.md R23 to R29). -/
def readCtrl (s : State) : CtrlReg → Word
  | .cmd => 0
  | .status => statusWord s.status
  | .ctrl => ctrlWord s.ie
  | .src => s.src.setWidth 32
  | .dst => s.dst.setWidth 32
  | .key => s.key.setWidth 32
  | .aux => s.aux.setWidth 32
  | .len => s.len.setWidth 32
  | .hsstat => hsstatWord s.session
  | .reserved => 0

/-! ## Refusals -/

/-- A read refused because BUSY = 1: 0x00 and OVR (20_memory.md R76). -/
def busyRead (s : State) : State := withReadData (.byte 0) (setOvr s)

/-- The accesses that R76 of 20_memory.md refuses while BUSY = 1: reads of DMEM and of the session window. -/
def ownedRead : BusTarget → Bool
  | .dmem _ => true
  | .window _ => true
  | _ => false

/-- The accesses that R76 of 20_memory.md refuses while BUSY = 1: writes of DMEM, CMD and the operand registers. -/
def ownedWrite : BusTarget → Bool
  | .dmem _ => true
  | .creg .cmd => true
  | .creg .src => true
  | .creg .dst => true
  | .creg .key => true
  | .creg .aux => true
  | .creg .len => true
  | _ => false

/-- A transaction refused for its width or alignment: BERR is set (20_memory.md R61). Where R76 refuses the same access because
BUSY = 1, OVR is set as well: R76 makes no exception for a width (log 8). -/
def widthRefused (owned : Bool) (s : State) : State :=
  if owned && s.status.busy then setOvr (setBerr s) else setBerr s

/-! ## Transactions -/

/-- An 8-bit read (20_memory.md R60, R61, R65, R76). An unwritten DMEM byte gives a free draw (log 3). -/
def busRead8 (a : BusAddr) (s : State) : State :=
  match busTarget a with
  | .dmem i =>
    if s.status.busy then busyRead s
    else
      match memGet? s.dmem i with
      | some b => withReadData (.byte b) s
      | none => countDraw (withReadData (.byte (Config.freeByte s.draws)) s)
  | .creg r => withReadData (.byte 0) (widthRefused (ownedRead (.creg r)) s)
  | .window i => if s.status.busy then busyRead s else withReadData (.byte (windowByte s.session i)) s
  | .reserved => withReadData (.byte 0) s

/-- A 32-bit read (20_memory.md R60, R61, R76). -/
def busRead32 (a : BusAddr) (s : State) : State :=
  match busTarget a with
  | .dmem i => withReadData (.word 0) (widthRefused (ownedRead (.dmem i)) s)
  | .creg r =>
    if a.toNat % 4 = 0 then withReadData (.word (readCtrl s r)) s
    else withReadData (.word 0) (widthRefused (ownedRead (.creg r)) s)
  | .window i => withReadData (.word 0) (widthRefused (ownedRead (.window i)) s)
  | .reserved => withReadData (.word 0) s

/-- An 8-bit write (20_memory.md R60, R61, R62, R65, R76). -/
def busWrite8 (a : BusAddr) (v : Byte) (s : State) : State :=
  match busTarget a with
  | .dmem i => if s.status.busy then setOvr s else withDmem (memSet s.dmem i v) s
  | .creg r => widthRefused (ownedWrite (.creg r)) s
  | .window _ => s
  | .reserved => s

/-- A write of `w` to CTRL: SRST acts, else IE is written (10_state.md R26; 70_reset_and_hazards.md R292). -/
def writeCtrlReg (w : Word) (s : State) : State :=
  if w.getLsbD 1 then softReset s else { s with ie := w.getLsbD 0 }

/-- A 32-bit write of `w` to a control register (10_state.md R24 to R29; 20_memory.md R76). -/
def writeCtrl (r : CtrlReg) (w : Word) (s : State) : State :=
  match r with
  | .cmd => if s.status.busy then setOvr s else acceptCommand w s
  | .status => clearReport w s
  | .ctrl => writeCtrlReg w s
  | .src => if s.status.busy then setOvr s else { s with src := w.extractLsb' 0 12 }
  | .dst => if s.status.busy then setOvr s else { s with dst := w.extractLsb' 0 12 }
  | .key => if s.status.busy then setOvr s else { s with key := w.extractLsb' 0 12 }
  | .aux => if s.status.busy then setOvr s else { s with aux := w.extractLsb' 0 12 }
  | .len => if s.status.busy then setOvr s else { s with len := w.extractLsb' 0 13 }
  | .hsstat => s
  | .reserved => s

/-- A 32-bit write (20_memory.md R60, R61, R76). -/
def busWrite32 (a : BusAddr) (w : Word) (s : State) : State :=
  match busTarget a with
  | .dmem i => widthRefused (ownedWrite (.dmem i)) s
  | .creg r => if a.toNat % 4 = 0 then writeCtrl r w s else widthRefused (ownedWrite (.creg r)) s
  | .window i => widthRefused (ownedWrite (.window i)) s
  | .reserved => s

/-- One host transaction (20_memory.md R60). -/
def busStep : BusOp → State → State
  | .read8 a, s => busRead8 a s
  | .read32 a, s => busRead32 a s
  | .write8 a v, s => busWrite8 a v s
  | .write32 a w, s => busWrite32 a w s

end Sys2Proof.Machine
end

