-- ==== Sys2Proof/Machine/Operands.lean ====
section
/-! DEFINITION. Operand forms and validation. XTC has one addressing mode, register-absolute (30_encoding.md R103): an operand
is the value of an operand register, unscaled and zero-extended (R94), or a fixed DMEM region (20_memory.md R66). The checks are
those of 60_exceptions.md R262. -/

namespace Sys2Proof.Machine

/-- `zext_32(reg(SRC.ADDR))` (30_encoding.md R94). -/
def srcAddr (s : State) : Nat := s.src.toNat

/-- `zext_32(reg(DST.ADDR))` (30_encoding.md R94). -/
def dstAddr (s : State) : Nat := s.dst.toNat

/-- `zext_32(reg(KEY.ADDR))` (30_encoding.md R94). -/
def keyAddr (s : State) : Nat := s.key.toNat

/-- `zext_32(reg(AUX.ADDR))` (30_encoding.md R94). -/
def auxAddr (s : State) : Nat := s.aux.toNat

/-- `reg(LEN.COUNT)` (30_encoding.md R94). -/
def lenCount (s : State) : Nat := s.len.toNat

/-! ## Fixed regions (20_memory.md R66) -/

/-- K1, 16 bytes. -/
def k1Addr : Nat := 0x000
/-- K2, 16 bytes. -/
def k2Addr : Nat := 0x010
/-- FSK0, 16 bytes. -/
def fsk0Addr : Nat := 0x020
/-- FSK1, 16 bytes. -/
def fsk1Addr : Nat := 0x030
/-- SBOX, 256 bytes. -/
def sboxAddr : Nat := 0x040
/-- REF, 128 bytes. -/
def refAddr : Nat := 0x140
/-- PKT1. -/
def pkt1 : Nat := 0x200
/-- PKT2. -/
def pkt2 : Nat := 0x400
/-- PKT3. -/
def pkt3 : Nat := 0x600
/-- PKT4. -/
def pkt4 : Nat := 0x800
/-- PKT5. -/
def pkt5 : Nat := 0xA00

/-! ## Validation -/

/-- `a + n ≤ 4096`: the region fits in DMEM; the sum never wraps (30_encoding.md R95, R102). -/
def fits (a n : Nat) : Bool := decide (a + n ≤ dmemSize)

/-- The range check of 60_exceptions.md R262 step 4: the regions `(a, n)` in the order given. -/
def checkRange : List (Nat × Nat) → Except Abort Unit
  | [] => .ok ()
  | (a, n) :: rs => if fits a n then checkRange rs else .error (.cmdError .range)

/-- The length check of 60_exceptions.md R262 step 3: LEN must be a multiple of 8. -/
def checkLen (n : Nat) : Except Abort Unit :=
  if n % 8 = 0 then .ok () else .error (.cmdError .len)

/-- Complete and Failed are terminal (43_handshake.md R229). -/
def hsTerminal : HsState → Bool
  | .complete => true
  | .failed => true
  | _ => false

/-- The state check of 60_exceptions.md R262 step 2: E_STATE in a terminal state. -/
def checkState (st : HsState) : Except Abort Unit :=
  if hsTerminal st then .error (.cmdError .state) else .ok ()

end Sys2Proof.Machine
end

