-- ==== Sys2Proof/Machine/Cipher.lean ====
section
/-! DEFINITION. The triple cipher (41_cipher.md): the single-block cipher, the triple composition, the triple-keyed CBC cipher,
and BLK.E, BLK.D, TCBC.E and TCBC.D. -/

namespace Sys2Proof.Machine

/-! ## Functions -/

/-- `E(k, x)`: BlockEnc (41_cipher.md R140; 00_scope.md R7). -/
def blockEnc (P : Params) (k x : Block) : Block := P.cipher k x

/-- `D(k, y)`: BlockDec, the inverse of BlockEnc under the same key (41_cipher.md R140; 00_scope.md R7). -/
def blockDec (P : Params) (k y : Block) : Block := (P.cipher k).symm y

/-- `EDE(K1, K2, K3; x) = E(K3, D(K2, E(K1, x)))` (41_cipher.md R141; log 14). -/
def ede (P : Params) (k1 k2 k3 x : Block) : Block := blockEnc P k3 (blockDec P k2 (blockEnc P k1 x))

/-- `DED(K1, K2, K3; y) = D(K1, E(K2, D(K3, y)))` (41_cipher.md R141; log 14). -/
def ded (P : Params) (k1 k2 k3 y : Block) : Block := blockDec P k1 (blockEnc P k2 (blockDec P k3 y))

/-- `key24 = (k || k)[0:24]` (41_cipher.md R142). -/
def key24 (k : Bytes 16) : Bytes 24 := slice (cat k k) 0 24

/-- The encryption of one block under the 24-byte expansion of `k` (41_cipher.md R142). -/
def tripleEnc (P : Params) (k : Bytes 16) (x : Block) : Block :=
  ede P (slice (key24 k) 0 8) (slice (key24 k) 8 8) (slice (key24 k) 16 8) x

/-- The decryption of one block under the 24-byte expansion of `k` (41_cipher.md R142). -/
def tripleDec (P : Params) (k : Bytes 16) (y : Block) : Block :=
  ded P (slice (key24 k) 0 8) (slice (key24 k) 8 8) (slice (key24 k) 16 8) y

/-- The encrypting chain from the chaining value `prev` (41_cipher.md R143). -/
def cbcEnc (P : Params) (k : Bytes 16) (prev : Block) : List Block → List Block
  | [] => []
  | p :: ps =>
    let c := tripleEnc P k (xorBytes p prev)
    c :: cbcEnc P k c ps

/-- The decrypting chain from the chaining value `prev` (41_cipher.md R143). -/
def cbcDec (P : Params) (k : Bytes 16) (prev : Block) : List Block → List Block
  | [] => []
  | c :: cs => xorBytes (tripleDec P k c) prev :: cbcDec P k c cs

/-- The encrypting chain gives as many blocks as it takes. -/
theorem cbcEnc_length (P : Params) (k : Bytes 16) (ps : List Block) :
    ∀ prev : Block, (cbcEnc P k prev ps).length = ps.length := by
  induction ps with
  | nil => intro _; rfl
  | cons p ps ih => intro prev; simp [cbcEnc, ih]

/-- The decrypting chain gives as many blocks as it takes. -/
theorem cbcDec_length (P : Params) (k : Bytes 16) (cs : List Block) :
    ∀ prev : Block, (cbcDec P k prev cs).length = cs.length := by
  induction cs with
  | nil => intro _; rfl
  | cons c cs ih => intro prev; simp [cbcDec, ih]

/-- `TcbcEnc(k, P)` on n blocks, with the all-zero initial vector (41_cipher.md R143). -/
def tcbcEnc (P : Params) {n : Nat} (k : Bytes 16) (p : Vector Block n) : Vector Block n :=
  ⟨(cbcEnc P k (zeros 8) p.toList).toArray, by simp [cbcEnc_length]⟩

/-- `TcbcDec(k, C)` on n blocks, with the all-zero initial vector (41_cipher.md R143). -/
def tcbcDec (P : Params) {n : Nat} (k : Bytes 16) (c : Vector Block n) : Vector Block n :=
  ⟨(cbcDec P k (zeros 8) c.toList).toArray, by simp [cbcDec_length]⟩

/-- `TcbcEnc(k, x)` of a 16-byte string, as a 16-byte string. -/
def tcbcEnc16 (P : Params) (k x : Bytes 16) : Bytes 16 :=
  let y := tcbcEnc P k #v[lo8 x, hi8 x]
  cat16 y[0] y[1]

/-! ## Commands -/

/-- BLK.E and BLK.D (41_cipher.md R145, R146), with `f` the block function of the direction. -/
def blkBody (f : Block → Block → Block) (s : State) : Except Abort State := do
  checkRange [(srcAddr s, 8), (keyAddr s, 8), (dstAddr s, 8)]
  let key ← memRead s.dmem (keyAddr s) 8
  let x ← memRead s.dmem (srcAddr s) 8
  return withDmem (memWrite s.dmem (dstAddr s) (f key x)) s

/-- TCBC.E and TCBC.D (41_cipher.md R147, R148), with `f` the cipher of the direction. LEN is checked first. -/
def tcbcBody (f : (n : Nat) → Bytes 16 → Vector Block n → Vector Block n) (s : State) : Except Abort State := do
  let n := lenCount s
  checkLen n
  checkRange [(srcAddr s, n), (keyAddr s, 16), (dstAddr s, n)]
  let key ← memRead s.dmem (keyAddr s) 16
  let p ← memReadBlocks s.dmem (srcAddr s) (n / 8)
  return withDmem (memWriteBlocks s.dmem (dstAddr s) (f (n / 8) key p)) s

/-- BLK.E (41_cipher.md R145). -/
def execBlkE (s : State) : Host.Outcome State Fault Refusal :=
  finish .blkE s (blkBody (blockEnc Config.params) s)

/-- BLK.D (41_cipher.md R146). -/
def execBlkD (s : State) : Host.Outcome State Fault Refusal :=
  finish .blkD s (blkBody (blockDec Config.params) s)

/-- TCBC.E (41_cipher.md R147). -/
def execTcbcE (s : State) : Host.Outcome State Fault Refusal :=
  finish .tcbcE s (tcbcBody (fun _ k p => tcbcEnc Config.params k p) s)

/-- TCBC.D (41_cipher.md R148). -/
def execTcbcD (s : State) : Host.Outcome State Fault Refusal :=
  finish .tcbcD s (tcbcBody (fun _ k p => tcbcDec Config.params k p) s)

end Sys2Proof.Machine
end

