-- ==== Sys2Proof/Machine/Mac.lean ====
section
/-! DEFINITION. The MAC engine and the ACR combiner (42_mac_acr.md): the keyed CBC-MAC with salt rollover, the ACR construction,
and MAC.G, MAC.GS, MAC.V, MAC.VS and ACR. -/

namespace Sys2Proof.Machine

/-- The mode of a MAC: generate or verify (42_mac_acr.md R170). -/
inductive MacMode
  | gen
  | ver
deriving DecidableEq, Repr

/-! ## The keyed MAC -/

/-- `SaltInc(s) = tob8((be64(s) + 1) mod 2^64)` (42_mac_acr.md R171). -/
def saltInc (s : Block) : Block := tob8 ((be64 s + 1) % 2 ^ 64)

/-- Step 2 of 42_mac_acr.md R170: the salt to return and the first chaining value. -/
def macSeed (P : Params) (key : Bytes 16) (salt : Option Block) (mode : MacMode) : Option Block × Block :=
  match mode, salt with
  | .gen, some x => (some (saltInc x), blockEnc P (slice key 0 8) (saltInc x))
  | _, _ => (salt, zeros 8)

/-- Step 3 of 42_mac_acr.md R170: one block folded into the chaining value. Generate uses the subkey A split off in step 1;
verify derives the first subkey afresh, which gives the same 8 bytes (R172). -/
def macFold (P : Params) (key : Bytes 16) (mode : MacMode) (A c d : Block) : Block :=
  match mode with
  | .gen => blockEnc P A (xorBytes c d)
  | .ver => blockEnc P (slice key 0 8) (xorBytes c d)

/-- Step 4 of 42_mac_acr.md R170: byte 0 of the chaining value XORed with 0x80. -/
def flipTop (c : Block) : Block := xorBytes c #v[0x80, 0, 0, 0, 0, 0, 0, 0]

/-- Step 5 of 42_mac_acr.md R170: the finalisation of each mode. -/
def macFinal (P : Params) (key : Bytes 16) (mode : MacMode) (c : Block) : Block :=
  match mode with
  | .gen => blockEnc P (slice key 0 8) (blockDec P (slice key 8 8) (blockEnc P (slice key 0 8) c))
  | .ver => (tcbcEnc P key #v[c])[0]

/-- `Mac(key, salt, data, mode)`, the pair `(salt_out, mac)` (42_mac_acr.md R170). -/
def mac (P : Params) (key : Bytes 16) (salt : Option Block) (data : List Block) (mode : MacMode) : Option Block × Block :=
  let A := slice key 0 8
  let seed := macSeed P key salt mode
  let c := data.foldl (macFold P key mode A) seed.2
  (seed.1, macFinal P key mode (flipTop c))

/-! ## The ACR -/

/-- `Acr(key, cert, desc)` over the tables SBOX and REF (42_mac_acr.md R180). -/
def acr (P : Params) (sbox : Bytes 256) (ref : Bytes 128) (key : Block) (cert : Bytes 4) (desc : Bytes 32) : Block :=
  let blk : Bytes 8 := cat (slice desc 0 4 : Bytes 4) cert
  let iv : Bytes 16 := P.parveEcb 2 key sbox (slice desc 16 16)
  let cd : Block := P.parveEcb 1 key sbox blk
  let ab : Block := P.parveCbcMac key sbox iv ref
  let out : Block := P.chainAndSum cd ab ref
  xorBytes out ab

/-! ## Commands -/

/-- The shared pseudocode of the four MAC commands (42_mac_acr.md, "MAC commands"). -/
def macBody (P : Params) (mode : MacMode) (saltEn : Bool) (s : State) : Except Abort State := do
  let n := lenCount s
  checkLen n
  let m := if saltEn then 16 else 8
  checkRange ([(srcAddr s, n), (keyAddr s, 16)] ++ (if saltEn then [(auxAddr s, 8)] else []) ++ [(dstAddr s, m)])
  let key ← memRead s.dmem (keyAddr s) 16
  let data ← memReadBlocks s.dmem (srcAddr s) (n / 8)
  let salt ← if saltEn then (memRead s.dmem (auxAddr s) 8).map some else pure none
  let r := mac P key salt data.toList mode
  let dmem := memWrite s.dmem (dstAddr s) r.2
  match r.1 with
  | some saltOut => return withDmem (memWrite dmem (dstAddr s + 8) saltOut) s
  | none => return withDmem dmem s

/-- ACR (42_mac_acr.md R181). SBOX and REF are read in full (93_implementation_defined.md U19). -/
def acrBody (P : Params) (s : State) : Except Abort State := do
  checkRange [(srcAddr s, 32), (keyAddr s, 8), (auxAddr s, 4), (dstAddr s, 8)]
  let desc ← memRead s.dmem (srcAddr s) 32
  let key ← memRead s.dmem (keyAddr s) 8
  let cert ← memRead s.dmem (auxAddr s) 4
  let sbox ← memRead s.dmem sboxAddr 256
  let ref ← memRead s.dmem refAddr 128
  return withDmem (memWrite s.dmem (dstAddr s) (acr P sbox ref key cert desc)) s

/-- MAC.G (42_mac_acr.md R174). -/
def execMacG (s : State) : Host.Outcome State Fault Refusal := finish .macG s (macBody Config.params .gen false s)

/-- MAC.GS (42_mac_acr.md R175). -/
def execMacGS (s : State) : Host.Outcome State Fault Refusal := finish .macGS s (macBody Config.params .gen true s)

/-- MAC.V (42_mac_acr.md R176). -/
def execMacV (s : State) : Host.Outcome State Fault Refusal := finish .macV s (macBody Config.params .ver false s)

/-- MAC.VS (42_mac_acr.md R177). -/
def execMacVS (s : State) : Host.Outcome State Fault Refusal := finish .macVS s (macBody Config.params .ver true s)

/-- ACR (42_mac_acr.md R181). -/
def execAcr (s : State) : Host.Outcome State Fault Refusal := finish .acr s (acrBody Config.params s)

end Sys2Proof.Machine
end

