-- ==== Sys2Proof/Machine/Packet.lean ====
section
/-! DEFINITION. The packet checker (40_packet.md): the XOR-fold, the checksum test, the normalisation, and CKSUM and NORM. -/

namespace Sys2Proof.Machine

/-! ## Functions -/

/-- `XorFold(b)`: the exclusive-or of all bytes, 0x00 for the empty string (40_packet.md R120). -/
def xorFold (b : List Byte) : Byte := b.foldl (· ^^^ ·) 0

/-- `PacketOK(a)` (40_packet.md R120): the length byte is at `a + 4`, the body at `a + 5`, the checksum after it (R119). -/
def packetOk (m : Memory) (a : Nat) : Except Abort Bool := do
  let l ← memReadByte m (a + 4)
  let body ← memRead m (a + 5) l.toNat
  let ck ← memReadByte m (a + 5 + l.toNat)
  return xorFold body.toList == ck

/-- `rp`: how a 2-byte field is re-packed (40_packet.md R124). -/
def repack (P : Params) (f : Bytes 2) : Bytes 2 :=
  match P.normRepack with
  | .be => f
  | .le => cat (slice f 1 1) (slice f 0 1)

/-- `Normalize(b)` of the first 23 body bytes (40_packet.md R123): fields of widths 2, 2, 1, 2, 1 from offset 15, re-packed from
offset 16 in the order 0, 1, 2, 4, 3; bytes 15 and 24 to 31 stay 0x00. -/
def normalizePacket (P : Params) (b : Bytes 23) : Bytes 32 :=
  let f0 : Bytes 2 := slice b 15 2
  let f1 : Bytes 2 := slice b 17 2
  let f2 : Bytes 1 := slice b 19 1
  let f3 : Bytes 2 := slice b 20 2
  let f4 : Bytes 1 := slice b 22 1
  let d0 : Bytes 32 := setSlice (zeros 32) 0 (slice b 0 15)
  let d1 := setSlice d0 16 (repack P f0)
  let d2 := setSlice d1 18 (repack P f1)
  let d3 := setSlice d2 20 f2
  let d4 := setSlice d3 21 f4
  setSlice d4 22 (repack P f3)

/-! ## Commands -/

/-- CKSUM (40_packet.md R121): the second range check depends on the length byte, read after the first. -/
def cksumBody (s : State) : Except Abort State := do
  let a := srcAddr s
  checkRange [(a, 5)]
  let l ← memReadByte s.dmem (a + 4)
  checkRange [(a, 6 + l.toNat)]
  let body ← memRead s.dmem (a + 5) l.toNat
  let ck ← memReadByte s.dmem (a + 5 + l.toNat)
  return withResult (xorFold body.toList == ck) s

/-- NORM (40_packet.md R125). -/
def normBody (P : Params) (s : State) : Except Abort State := do
  let a := srcAddr s
  let d := dstAddr s
  checkRange [(a, 28), (d, 32)]
  let b ← memRead s.dmem (a + 5) 23
  return withDmem (memWrite s.dmem d (normalizePacket P b)) s

/-- CKSUM (40_packet.md R121). -/
def execCksum (s : State) : Host.Outcome State Fault Refusal := finish .cksum s (cksumBody s)

/-- NORM (40_packet.md R125). -/
def execNorm (s : State) : Host.Outcome State Fault Refusal := finish .norm s (normBody Config.params s)

end Sys2Proof.Machine
end

