-- ==== Sys2Proof/Machine/Handshake.lean ====
section
/-! DEFINITION. The handshake sequencer (43_handshake.md): the transitions T0 to T5, each check in the order of its rules, the
verdicts, and HSRST, HSSTEP and HSRUN. -/

namespace Sys2Proof.Machine

/-- How a transition ends: it reaches its end, or `fail(kind)` ends it; either way with the session writes made so far
(43_handshake.md R211, R212). -/
inductive Verdict
  | pass (S : Session)
  | fail (kind : FailKind) (S : Session)
deriving DecidableEq, Repr

/-! ## Transitions -/

/-- `Acr(key, S.CERT[0:4], S.DESC)` with SBOX and REF read from DMEM (43_handshake.md R220, R228). -/
def sessionAcr (P : Params) (m : Memory) (S : Session) (key : Block) : Except Abort Block := do
  let sbox ← memRead m sboxAddr 256
  let ref ← memRead m refAddr 128
  return acr P sbox ref key (slice S.cert 0 4) S.desc

/-- T0, Init to Identified (43_handshake.md R213). -/
def t0 (P : Params) (m : Memory) (S : Session) : Except Abort Verdict := do
  let ok ← packetOk m pkt1
  if !ok then return .fail .checksumMismatch S
  let b ← memRead m (pkt1 + 5) 23
  return .pass { S with desc := normalizePacket P b }

/-- The session writes of T1 from the decrypted cipher field of packet 2 (43_handshake.md R215). -/
def t1Session (P : Params) (fsk0 fsk1 : Bytes 16) (pt : Vector Block 3) (S : Session) : Session :=
  let nonce := cat16 pt[0] pt[1]
  { S with
    nonce := nonce
    cert := pt[2]
    renc := tcbcEnc16 P fsk0 nonce
    rsenc := tcbcEnc16 P fsk1 (cat16 (hi8 nonce) (lo8 nonce)) }

/-- The 4 MAC bytes that T1 compares (43_handshake.md R216; P_MAC4_SEL of 00_scope.md R11). -/
def mac4 (P : Params) (m : Block) : Bytes 4 :=
  match P.mac4Sel with
  | .low => slice m 4 4
  | .high => slice m 0 4

/-- T1, Identified to Challenged (43_handshake.md R214, R215, R216). -/
def t1 (P : Params) (m : Memory) (S : Session) : Except Abort Verdict := do
  let ok ← packetOk m pkt2
  if !ok then return .fail .checksumMismatch S
  let ct ← memReadBlocks m (pkt2 + 5) 3
  let k1 ← memRead m k1Addr 16
  let fsk0 ← memRead m fsk0Addr 16
  let fsk1 ← memRead m fsk1Addr 16
  let S := t1Session P fsk0 fsk1 (tcbcDec P k1 ct) S
  let k2 ← memRead m k2Addr 16
  let field ← memRead m (pkt2 + 29) 4
  if mac4 P (mac P k2 none ct.toList .gen).2 ≠ field then return .fail .macMismatch S
  return .pass S

/-- T2, Challenged to ResponseReceived (43_handshake.md R217 to R221). -/
def t2 (P : Params) (m : Memory) (S : Session) : Except Abort Verdict := do
  let ok ← packetOk m pkt3
  if !ok then return .fail .checksumMismatch S
  let ct ← memReadBlocks m (pkt3 + 5) 4
  let pt := tcbcDec P S.renc ct
  let S := { S with usbr := cat16 pt[0] pt[1] }
  let rnd := cat16 pt[2] pt[3]
  let mv := (mac P S.rsenc none ct.toList .ver).2
  if S.nonce ≠ rnd then return .fail .nonceMismatch S
  let a ← sessionAcr P m S mv
  let field ← memRead m (pkt3 + 37) 8
  if a ≠ field then return .fail .acrMismatch S
  let ct32 : Bytes 32 := cat (cat16 ct[0] ct[1]) (cat16 ct[2] ct[3])
  let pt32 : Bytes 32 := cat (cat16 pt[0] pt[1]) (cat16 pt[2] pt[3])
  return .pass { S with chash := P.contentHash ct32 pt32 }

/-- The interchange of the last 4 bytes of NONCE and USBR (43_handshake.md R222; P_XCHG of 00_scope.md R11). -/
def interchange (P : Params) (S : Session) : Session :=
  let t : Bytes 4 := slice S.nonce 12 4
  match P.xchg with
  | .swap => { S with nonce := setSlice S.nonce 12 (slice S.usbr 12 4), usbr := setSlice S.usbr 12 t }
  | .copy => { S with nonce := setSlice S.nonce 12 (slice S.usbr 12 4) }

/-- T3, ResponseReceived to Verified1 (43_handshake.md R222 to R225). The interchange comes before the checksum test, and the
updated salt is written before the compare. -/
def t3 (P : Params) (m : Memory) (S : Session) : Except Abort Verdict := do
  let S := interchange P S
  let ok ← packetOk m pkt4
  if !ok then return .fail .checksumMismatch S
  let ct ← memReadBlocks m (pkt4 + 5) 1
  let x := (tcbcDec P S.usbr ct)[0]
  let S := { S with nonce := setSlice S.nonce 8 x }
  let salt := slice S.nonce 0 8
  let r := mac P S.chash (some salt) ct.toList .gen
  let S := { S with nonce := setSlice S.nonce 0 (r.1.getD salt) }
  let field ← memRead m (pkt4 + 13) 8
  if r.2 ≠ field then return .fail .macMismatch S
  return .pass S

/-- T4, Verified1 to ResponseVerified1 (43_handshake.md R226, R227). -/
def t4 (P : Params) (m : Memory) (S : Session) : Except Abort Verdict := do
  let ok ← packetOk m pkt5
  if !ok then return .fail .checksumMismatch S
  let ct ← memReadBlocks m (pkt5 + 5) 1
  let S := { S with expacr := (tcbcDec P S.renc ct)[0] }
  let salt := slice S.nonce 0 8
  let r := mac P S.rsenc (some salt) ct.toList .gen
  let S := { S with nonce := setSlice S.nonce 0 (r.1.getD salt) }
  let field ← memRead m (pkt5 + 13) 8
  if r.2 ≠ field then return .fail .macMismatch S
  return .pass S

/-- T5, ResponseVerified1 to Complete (43_handshake.md R228). -/
def t5 (P : Params) (m : Memory) (S : Session) : Except Abort Verdict := do
  let a ← sessionAcr P m S (slice S.nonce 8 8)
  if a ≠ S.expacr then return .fail .acrMismatch S
  return .pass S

/-! ## The sequencer -/

/-- The state with the next code (43_handshake.md R211); a terminal state has none and stays (R229). -/
def hsNext : HsState → HsState
  | .init => .identified
  | .identified => .challenged
  | .challenged => .responseReceived
  | .responseReceived => .verified1
  | .verified1 => .responseVerified1
  | .responseVerified1 => .complete
  | .complete => .complete
  | .failed => .failed

/-- The end of the transition that started from `st`: the next state, or Failed with its kind and its origin
(43_handshake.md R211, R212). -/
def settle (st : HsState) : Verdict → Session
  | .pass S => { S with hsState := hsNext st }
  | .fail kind S => { S with failKind := kind, failAt := st, hsState := .failed }

/-- The body of the transition `T_st` (43_handshake.md R210, R211). From a terminal state no transition exists (R229): the
callers never ask for one, and the session stays. -/
def transitionBody (P : Params) (m : Memory) (S : Session) : Except Abort Verdict :=
  match S.hsState with
  | .init => t0 P m S
  | .identified => t1 P m S
  | .challenged => t2 P m S
  | .responseReceived => t3 P m S
  | .verified1 => t4 P m S
  | .responseVerified1 => t5 P m S
  | .complete => .ok (.pass S)
  | .failed => .ok (.pass S)

/-- One transition, selected by HS_STATE alone (43_handshake.md R211). -/
def transition (P : Params) (m : Memory) (S : Session) : Except Abort Session := do
  let v ← transitionBody P m S
  return settle S.hsState v

/-- Transitions until a terminal state, at most `n` of them (43_handshake.md R231; log 17). -/
def runTransitions (P : Params) (m : Memory) : Nat → Session → Except Abort Session
  | 0, S => .ok S
  | n + 1, S =>
    if hsTerminal S.hsState then .ok S
    else
      match transition P m S with
      | .error e => .error e
      | .ok S' => runTransitions P m n S'

/-! ## Commands -/

/-- HSRST (43_handshake.md R232). -/
def hsrstBody (s : State) : Except Abort State := .ok (withSession Session.reset s)

/-- HSSTEP (43_handshake.md R230): one transition; RESULT = 1 exactly when it passed. -/
def hsstepBody (P : Params) (s : State) : Except Abort State := do
  checkState s.session.hsState
  let S ← transition P s.dmem s.session
  return withResult (decide (S.hsState ≠ .failed)) (withSession S s)

/-- HSRUN (43_handshake.md R231): transitions to a terminal state, at most 6; RESULT = 1 exactly when it is Complete. -/
def hsrunBody (P : Params) (s : State) : Except Abort State := do
  checkState s.session.hsState
  let S ← runTransitions P s.dmem 6 s.session
  return withResult (decide (S.hsState = .complete)) (withSession S s)

/-- HSRST (43_handshake.md R232). -/
def execHsrst (s : State) : Host.Outcome State Fault Refusal := finish .hsrst s (hsrstBody s)

/-- HSSTEP (43_handshake.md R230). -/
def execHsstep (s : State) : Host.Outcome State Fault Refusal := finish .hsstep s (hsstepBody Config.params s)

/-- HSRUN (43_handshake.md R231). -/
def execHsrun (s : State) : Host.Outcome State Fault Refusal := finish .hsrun s (hsrunBody Config.params s)

end Sys2Proof.Machine
end

