-- ==== Sys2Proof/Machine/Dispatch.lean ====
section
/-! DEFINITION. The meaning of each command: one arm per constructor of `Instr`. -/

namespace Sys2Proof.Machine

/-- The effect of command `i`, run by the command engine in state `s` (10_state.md R20; 20_memory.md R75). -/
def exec (i : Instr) (s : State) : Host.Outcome State Fault Refusal :=
  match i with
  | .cksum => Sys2Proof.Machine.execCksum s
  | .norm => Sys2Proof.Machine.execNorm s
  | .blkD => Sys2Proof.Machine.execBlkD s
  | .blkE => Sys2Proof.Machine.execBlkE s
  | .tcbcD => Sys2Proof.Machine.execTcbcD s
  | .tcbcE => Sys2Proof.Machine.execTcbcE s
  | .macV => Sys2Proof.Machine.execMacV s
  | .macG => Sys2Proof.Machine.execMacG s
  | .macVS => Sys2Proof.Machine.execMacVS s
  | .macGS => Sys2Proof.Machine.execMacGS s
  | .acr => Sys2Proof.Machine.execAcr s
  | .hsrst => Sys2Proof.Machine.execHsrst s
  | .hsstep => Sys2Proof.Machine.execHsstep s
  | .hsrun => Sys2Proof.Machine.execHsrun s

end Sys2Proof.Machine
end

