-- ==== Sys2Proof/Machine/Engine.lean ====
section
/-! DEFINITION. The command engine's step (10_state.md R20, R31; 20_memory.md R75) and the effect of one event. -/

namespace Sys2Proof.Machine

/-- The command engine's step: with BUSY = 1 it decodes LATCH and runs the command, or raises E_ILLEGAL (30_encoding.md R91);
with BUSY = 0 it has none, and idling changes no state (60_exceptions.md R275; log 13). -/
def engineStep (s : State) : Host.Outcome State Fault Refusal :=
  if s.status.busy then
    match decodeLatch s with
    | .ok i => exec i s
    | .error _ => .next (takeError .illegal s)
  else .next s

/-- The effect of one event (20_memory.md R74; 70_reset_and_hazards.md R290). -/
def eventStep (e : Event) (s : State) : Host.Outcome State Fault Refusal :=
  match e with
  | .bus op => .next (busStep op s)
  | .engine => engineStep s
  | .hardReset => .next (hardReset s)

/-- The next event of the schedule, taken off it; with no event left, the engine's turn (log 1, 13). -/
def nextEvent (s : State) : Event × State :=
  match s.schedule with
  | [] => (.engine, s)
  | e :: es => (e, withSchedule es s)

end Sys2Proof.Machine
end

