-- ==== Sys2Proof/Machine/Step.lean ====
section
/-! DEFINITION. One step of the machine: the next event of the total order (20_memory.md R74). -/

namespace Sys2Proof.Machine

/-- One step: the next event takes effect (20_memory.md R74; 70_reset_and_hazards.md R300). -/
def step (s : State) : Host.Outcome State Fault Refusal :=
  eventStep (nextEvent s).1 (nextEvent s).2

/-- `s` with the command word `w` (its bits from `nbits` up zero) accepted and the engine's turn next, so that the very next
step decodes and runs it (10_state.md R24, R30; log 2). -/
def State.withFetchWord (s : State) (nbits w : Nat) : State :=
  withSchedule (.engine :: s.schedule) (acceptCommand (BitVec.ofNat 32 (w % 2 ^ nbits)) s)

end Sys2Proof.Machine
end

