-- ==== Sys2Proof/Safety.lean ====
section
/-! DEFINITION. What counts as a safe run, the invariants of the machine, and the frames and effects that statements about it
are written in. -/

namespace Sys2Proof.Machine

/-! ## Safe runs -/

/-- The step gives a next state: it meets no unwritten byte (20_memory.md R65). -/
def SafeStep (s : State) : Prop := ∃ t, step s = .next t

/-- `n` steps meet no unwritten byte. -/
def SafeRun (n : Nat) (s : State) : Prop := ∃ t, Host.Core.run Sys2Proof.core n s = .next t

/-- Bytes `a` to `a + n - 1` of DMEM have been written (20_memory.md R65). -/
def Written (m : Memory) (a n : Nat) : Prop := ∀ i, i < n → (memGet? m (a + i)).isSome = true

/-! ## Invariants -/

/-- Where each kind of failure can come from (43_handshake.md R234, item 3). -/
def verdictPossible : FailKind → HsState → Bool
  | .checksumMismatch, .init => true
  | .checksumMismatch, .identified => true
  | .checksumMismatch, .challenged => true
  | .checksumMismatch, .responseReceived => true
  | .checksumMismatch, .verified1 => true
  | .macMismatch, .identified => true
  | .macMismatch, .responseReceived => true
  | .macMismatch, .verified1 => true
  | .nonceMismatch, .challenged => true
  | .acrMismatch, .challenged => true
  | .acrMismatch, .responseVerified1 => true
  | _, _ => false

/-- The verdict registers agree with HS_STATE (10_state.md R29, R42, R43; 43_handshake.md R234, items 2 and 3). -/
def sessionInv (S : Session) : Prop :=
  (S.failKind ≠ .noFailure ↔ S.hsState = .failed) ∧
  (S.hsState ≠ .failed → S.failAt = .init) ∧
  (S.hsState = .failed → verdictPossible S.failKind S.failAt = true)

/-- The flags agree: while a command is pending its report is clear (10_state.md R24); ERR comes with a code, and a code comes
without RESULT (60_exceptions.md R261, R264). -/
def statusInv (t : Status) : Prop :=
  (t.busy = true → t.done = false ∧ t.err = false ∧ t.result = false ∧ t.errcode = .none) ∧
  (t.err = true → t.errcode ≠ .none) ∧
  (t.errcode ≠ .none → t.result = false)

/-! ## Frames and effects -/

/-- The operand registers, CTRL.IE, LATCH and the model's own fields are the same (10_state.md R22). -/
def KeepsRegisters (s t : State) : Prop :=
  t.ie = s.ie ∧ t.src = s.src ∧ t.dst = s.dst ∧ t.key = s.key ∧ t.aux = s.aux ∧ t.len = s.len ∧ t.latch = s.latch ∧
  t.schedule = s.schedule ∧ t.readData = s.readData ∧ t.draws = s.draws

/-- Every DMEM byte reads the same. -/
def KeepsDmem (s t : State) : Prop := ∀ x, memGet? t.dmem x = memGet? s.dmem x

/-- From `m` to `m'` exactly the bytes `bs` were stored from address `a` on: they stand there, and every other byte reads as
before (20_memory.md R64). -/
def StoredAt (m : Memory) (a : Nat) (bs : List Byte) (m' : Memory) : Prop :=
  (∀ i (h : i < bs.length), memGet? m' (a + i) = some bs[i]) ∧
  ∀ x, x < a ∨ a + bs.length ≤ x → memGet? m' x = memGet? m x

/-- Command `i` completes without error from `s`, stores `bs` at `a`, and changes nothing else but BUSY and DONE
(60_exceptions.md R264). -/
def CompletesStoring (i : Instr) (s : State) (a : Nat) (bs : List Byte) : Prop :=
  ∃ t, exec i s = .next t ∧ StoredAt s.dmem a bs t.dmem ∧ KeepsRegisters s t ∧ t.session = s.session ∧
    t.status = { s.status with busy := false, done := true }

/-- The state after a command error: nothing but the report (60_exceptions.md R261). -/
def errorState (e : ErrCode) (s : State) : State :=
  { s with status := { s.status with errcode := e, err := true, busy := false, done := true } }

/-- The state after a transition that passed: the session `S` with HS_STATE `next`, RESULT = 1 (43_handshake.md R211, R230). -/
def passedState (s : State) (next : HsState) (S : Session) : State :=
  { s with session := { S with hsState := next }, status := { s.status with result := true, busy := false, done := true } }

/-- The state after a transition that failed: the session `S` as it stood, the verdict, RESULT = 0 (43_handshake.md R212,
R230). -/
def failedState (s : State) (kind : FailKind) (S : Session) : State :=
  { s with
    session := { S with failKind := kind, failAt := s.session.hsState, hsState := .failed }
    status := { s.status with result := false, busy := false, done := true } }

/-! ## Packets and keys -/

/-- The packet at `a` has length byte `l`, body `body` and checksum byte `ck` (40_packet.md R119). -/
def PacketIs (m : Memory) (a : Nat) (l : Byte) (body : Bytes l.toNat) (ck : Byte) : Prop :=
  memGet? m (a + 4) = some l ∧ memRead m (a + 5) l.toNat = .ok body ∧ memGet? m (a + 5 + l.toNat) = some ck

/-- One block under the triple cipher with the 16-byte key `k`: `E(A, D(B, E(A, x)))`, A and B the halves of `k`
(41_cipher.md R141, R142). -/
def enc3 (k : Bytes 16) (x : Block) : Block :=
  blockEnc Config.params (lo8 k) (blockDec Config.params (hi8 k) (blockEnc Config.params (lo8 k) x))

/-- The inverse of `enc3`: `D(A, E(B, D(A, y)))` (41_cipher.md R141, R142). -/
def dec3 (k : Bytes 16) (y : Block) : Block :=
  blockDec Config.params (lo8 k) (blockEnc Config.params (hi8 k) (blockDec Config.params (lo8 k) y))

/-- The chaining value after one MAC block: `E(A, c ⊕ d)` (42_mac_acr.md R170, step 3). -/
def macStep (k : Bytes 16) (c d : Block) : Block := blockEnc Config.params (lo8 k) (xorBytes c d)

/-- The MAC of a final chaining value: byte 0 XORed with 0x80, then `E(A, D(B, E(A, c)))` (42_mac_acr.md R170, steps 4 and
5). -/
def macEnd (k : Bytes 16) (c : Block) : Block := enc3 k (xorBytes c #v[0x80, 0, 0, 0, 0, 0, 0, 0])

/-- The six steps of the ACR written as one expression of the parameters (42_mac_acr.md R180). -/
def acrValue (sbox : Bytes 256) (ref : Bytes 128) (key : Block) (cert : Bytes 4) (desc : Bytes 32) : Block :=
  xorBytes
    (Config.params.chainAndSum
      (Config.params.parveEcb 1 key sbox (cat (slice desc 0 4 : Bytes 4) cert : Bytes 8))
      (Config.params.parveCbcMac key sbox (Config.params.parveEcb 2 key sbox (slice desc 16 16)) ref) ref)
    (Config.params.parveCbcMac key sbox (Config.params.parveEcb 2 key sbox (slice desc 16 16)) ref)

/-- A 2-byte field as it is re-packed (40_packet.md R124; P_NORM_REPACK of 00_scope.md R11). -/
def repackedBytes (P : Params) (x y : Byte) : List Byte :=
  match P.normRepack with
  | .be => [x, y]
  | .le => [y, x]

/-- The 32 bytes of the descriptor of the body bytes `b` (40_packet.md R123). -/
def descriptorBytes (P : Params) (b : Bytes 23) : List Byte :=
  b.toList.take 15 ++ [(0 : Byte)] ++ repackedBytes P b[15] b[16] ++ repackedBytes P b[17] b[18] ++ [b[19], b[22]] ++
    repackedBytes P b[20] b[21] ++ List.replicate 8 (0 : Byte)

/-! ## Regions -/

/-- The regions of a command that has operands, in the order in which they are range-checked: SRC, KEY, AUX, DST
(30_encoding.md R94; 60_exceptions.md R262). CKSUM's is its first test only. -/
def operandRegions (i : Instr) (s : State) : List (Nat × Nat) :=
  match i with
  | .cksum => [(s.src.toNat, 5)]
  | .norm => [(s.src.toNat, 28), (s.dst.toNat, 32)]
  | .blkD => [(s.src.toNat, 8), (s.key.toNat, 8), (s.dst.toNat, 8)]
  | .blkE => [(s.src.toNat, 8), (s.key.toNat, 8), (s.dst.toNat, 8)]
  | .tcbcD => [(s.src.toNat, s.len.toNat), (s.key.toNat, 16), (s.dst.toNat, s.len.toNat)]
  | .tcbcE => [(s.src.toNat, s.len.toNat), (s.key.toNat, 16), (s.dst.toNat, s.len.toNat)]
  | .macV => [(s.src.toNat, s.len.toNat), (s.key.toNat, 16), (s.dst.toNat, 8)]
  | .macG => [(s.src.toNat, s.len.toNat), (s.key.toNat, 16), (s.dst.toNat, 8)]
  | .macVS => [(s.src.toNat, s.len.toNat), (s.key.toNat, 16), (s.aux.toNat, 8), (s.dst.toNat, 16)]
  | .macGS => [(s.src.toNat, s.len.toNat), (s.key.toNat, 16), (s.aux.toNat, 8), (s.dst.toNat, 16)]
  | .acr => [(s.src.toNat, 32), (s.key.toNat, 8), (s.aux.toNat, 4), (s.dst.toNat, 8)]
  | .hsrst => []
  | .hsstep => []
  | .hsrun => []

/-- The commands that read LEN (60_exceptions.md R260). -/
def readsLen : Instr → Bool
  | .tcbcD => true
  | .tcbcE => true
  | .macV => true
  | .macG => true
  | .macVS => true
  | .macGS => true
  | _ => false

/-- The DMEM region a command writes, as its first address and its size (30_encoding.md R94). -/
def outputRegion (i : Instr) (s : State) : Nat × Nat :=
  match i with
  | .norm => (s.dst.toNat, 32)
  | .blkD => (s.dst.toNat, 8)
  | .blkE => (s.dst.toNat, 8)
  | .tcbcD => (s.dst.toNat, s.len.toNat)
  | .tcbcE => (s.dst.toNat, s.len.toNat)
  | .macV => (s.dst.toNat, 8)
  | .macG => (s.dst.toNat, 8)
  | .macVS => (s.dst.toNat, 16)
  | .macGS => (s.dst.toNat, 16)
  | .acr => (s.dst.toNat, 8)
  | .cksum => (0, 0)
  | .hsrst => (0, 0)
  | .hsstep => (0, 0)
  | .hsrun => (0, 0)

/-- The bytes a packet check reads at `a`, and the fixed fields up to offset `n` (70_reset_and_hazards.md R293). -/
def PacketLoaded (m : Memory) (a n : Nat) : Prop :=
  Written m (a + 4) 1 ∧ (∀ l, memGet? m (a + 4) = some l → Written m (a + 5) (l.toNat + 1)) ∧ Written m (a + 5) (n - 5)

/-- The bytes that must be written before the transition from `st` (the table of 70_reset_and_hazards.md R293). -/
def TransitionLoaded (m : Memory) : HsState → Prop
  | .init => PacketLoaded m 0x200 0x1C
  | .identified => Written m 0x000 0x40 ∧ PacketLoaded m 0x400 0x21
  | .challenged => Written m 0x040 0x180 ∧ PacketLoaded m 0x600 0x2D
  | .responseReceived => PacketLoaded m 0x800 0x15
  | .verified1 => PacketLoaded m 0xA00 0x15
  | .responseVerified1 => Written m 0x040 0x180
  | .complete => True
  | .failed => True

/-- The bytes that must be written before command `i` (the table of 70_reset_and_hazards.md R293). -/
def LoadedFor (i : Instr) (s : State) : Prop :=
  match i with
  | .cksum => Written s.dmem (s.src.toNat + 4) 1 ∧
      ∀ l, memGet? s.dmem (s.src.toNat + 4) = some l → Written s.dmem (s.src.toNat + 5) (l.toNat + 1)
  | .norm => Written s.dmem (s.src.toNat + 5) 23
  | .blkD => Written s.dmem s.key.toNat 8 ∧ Written s.dmem s.src.toNat 8
  | .blkE => Written s.dmem s.key.toNat 8 ∧ Written s.dmem s.src.toNat 8
  | .tcbcD => Written s.dmem s.key.toNat 16 ∧ Written s.dmem s.src.toNat s.len.toNat
  | .tcbcE => Written s.dmem s.key.toNat 16 ∧ Written s.dmem s.src.toNat s.len.toNat
  | .macV => Written s.dmem s.key.toNat 16 ∧ Written s.dmem s.src.toNat s.len.toNat
  | .macG => Written s.dmem s.key.toNat 16 ∧ Written s.dmem s.src.toNat s.len.toNat
  | .macVS => Written s.dmem s.key.toNat 16 ∧ Written s.dmem s.src.toNat s.len.toNat ∧ Written s.dmem s.aux.toNat 8
  | .macGS => Written s.dmem s.key.toNat 16 ∧ Written s.dmem s.src.toNat s.len.toNat ∧ Written s.dmem s.aux.toNat 8
  | .acr => Written s.dmem s.src.toNat 32 ∧ Written s.dmem s.key.toNat 8 ∧ Written s.dmem s.aux.toNat 4 ∧
      Written s.dmem 0x040 0x180
  | .hsrst => True
  | .hsstep => TransitionLoaded s.dmem s.session.hsState
  | .hsrun => ∀ st, TransitionLoaded s.dmem st

/-! ## What a command reads -/

/-- Address `x` is one of the `n` addresses from `a` on. -/
def InRegion (a n x : Nat) : Prop := a ≤ x ∧ x < a + n

/-- The checksum test of the packet at `a` reads byte `x`: the length byte, then the body and the checksum byte
(40_packet.md R120). -/
def PacketReads (m : Memory) (a x : Nat) : Prop :=
  x = a + 4 ∨ ∃ l, memGet? m (a + 4) = some l ∧ InRegion (a + 5) (l.toNat + 1) x

/-- The packet at `a` is written and its checksum is right (40_packet.md R120). -/
def PacketPasses (m : Memory) (a : Nat) : Prop :=
  ∃ (l : Byte) (body : Bytes l.toNat) (ck : Byte), PacketIs m a l body ck ∧ xorFold body.toList = ck

/-- The nonce in packet 3 is the session's (43_handshake.md R218, R219). -/
def NonceAgrees (m : Memory) (S : Session) : Prop :=
  ∃ c0 c1 c2 c3, memReadBlocks m 0x605 4 = .ok #v[c0, c1, c2, c3] ∧
    S.nonce = cat16 (xorBytes (dec3 S.renc c2) c1) (xorBytes (dec3 S.renc c3) c2)

/-- The transition from HS_STATE reads byte `x`: the packet it checks; after a right checksum the fields of its rules; the tables
where it computes an ACR (43_handshake.md R213 to R228). From a terminal state there is none. -/
def TransitionReads (m : Memory) (S : Session) (x : Nat) : Prop :=
  match S.hsState with
  | .init => PacketReads m 0x200 x ∨ (PacketPasses m 0x200 ∧ InRegion 0x205 23 x)
  | .identified => PacketReads m 0x400 x ∨ (PacketPasses m 0x400 ∧ (InRegion 0x000 0x40 x ∨ InRegion 0x405 28 x))
  | .challenged => PacketReads m 0x600 x ∨ (PacketPasses m 0x600 ∧ InRegion 0x605 32 x) ∨
      (PacketPasses m 0x600 ∧ NonceAgrees m S ∧ (InRegion 0x040 0x180 x ∨ InRegion 0x625 8 x))
  | .responseReceived => PacketReads m 0x800 x ∨ (PacketPasses m 0x800 ∧ InRegion 0x805 16 x)
  | .verified1 => PacketReads m 0xA00 x ∨ (PacketPasses m 0xA00 ∧ InRegion 0xA05 16 x)
  | .responseVerified1 => InRegion 0x040 0x180 x
  | .complete => False
  | .failed => False

/-- The sessions `S 0` to `S n` are those of `n` HSSTEPs from `s`, one after the other, none of which starts in a terminal state
(43_handshake.md R230, R231). -/
def HsstepChain (s : State) (n : Nat) (S : Nat → Session) : Prop :=
  S 0 = s.session ∧ ∀ j, j < n → (S j).hsState ≠ .complete ∧ (S j).hsState ≠ .failed ∧
    ∃ u, exec .hsstep { s with session := S j } = .next u ∧ u.session = S (j + 1)

/-- Command `i` reads DMEM byte `x` (30_encoding.md R94; 42_mac_acr.md R181). CKSUM reads its second region only where that region
fits (40_packet.md R121). HSRUN reads what the transitions of its run read (43_handshake.md R231). -/
def CommandReads (i : Instr) (s : State) (x : Nat) : Prop :=
  match i with
  | .cksum => x = s.src.toNat + 4 ∨ ∃ l, memGet? s.dmem (s.src.toNat + 4) = some l ∧
      s.src.toNat + 6 + l.toNat ≤ 4096 ∧ InRegion (s.src.toNat + 5) (l.toNat + 1) x
  | .norm => InRegion (s.src.toNat + 5) 23 x
  | .blkD => InRegion s.key.toNat 8 x ∨ InRegion s.src.toNat 8 x
  | .blkE => InRegion s.key.toNat 8 x ∨ InRegion s.src.toNat 8 x
  | .tcbcD => InRegion s.key.toNat 16 x ∨ InRegion s.src.toNat s.len.toNat x
  | .tcbcE => InRegion s.key.toNat 16 x ∨ InRegion s.src.toNat s.len.toNat x
  | .macV => InRegion s.key.toNat 16 x ∨ InRegion s.src.toNat s.len.toNat x
  | .macG => InRegion s.key.toNat 16 x ∨ InRegion s.src.toNat s.len.toNat x
  | .macVS => InRegion s.key.toNat 16 x ∨ InRegion s.src.toNat s.len.toNat x ∨ InRegion s.aux.toNat 8 x
  | .macGS => InRegion s.key.toNat 16 x ∨ InRegion s.src.toNat s.len.toNat x ∨ InRegion s.aux.toNat 8 x
  | .acr => InRegion s.src.toNat 32 x ∨ InRegion s.key.toNat 8 x ∨ InRegion s.aux.toNat 4 x ∨ InRegion 0x040 0x180 x
  | .hsrst => False
  | .hsstep => TransitionReads s.dmem s.session x
  | .hsrun => ∃ n S, HsstepChain s n S ∧ TransitionReads s.dmem (S n) x

/-! ## The bus -/

/-- The transactions whose width or alignment their target does not accept (20_memory.md R61). -/
def WidthRefused : BusOp → Prop
  | .read8 a => 0x1000 ≤ a.toNat ∧ a.toNat < 0x1040
  | .write8 a _ => 0x1000 ≤ a.toNat ∧ a.toNat < 0x1040
  | .read32 a => a.toNat < 0x1000 ∨ (0x1000 ≤ a.toNat ∧ a.toNat < 0x1040 ∧ a.toNat % 4 ≠ 0) ∨
      (0x1100 ≤ a.toNat ∧ a.toNat < 0x1180)
  | .write32 a _ => a.toNat < 0x1000 ∨ (0x1000 ≤ a.toNat ∧ a.toNat < 0x1040 ∧ a.toNat % 4 ≠ 0) ∨
      (0x1100 ≤ a.toNat ∧ a.toNat < 0x1180)

/-- The bytes of the session window, register after register (20_memory.md R62). -/
def windowBytes (S : Session) : List Byte :=
  S.nonce.toList ++ S.cert.toList ++ S.expacr.toList ++ S.renc.toList ++ S.rsenc.toList ++ S.usbr.toList ++
    S.chash.toList ++ S.desc.toList

/-- The transaction that performs a soft reset: a CTRL write with SRST set (70_reset_and_hazards.md R292). -/
def isSoftReset : BusOp → Bool
  | .write32 a w => decide (a.toNat = 0x1008) && w.getLsbD 1
  | _ => false

/-- The transactions that the table of 20_memory.md R76 refuses while BUSY = 1, by their addresses: writes to DMEM, CMD, SRC, DST,
KEY, AUX and LEN, and reads of DMEM and the session window. -/
def engineOwns : BusOp → Bool
  | .read8 a => decide (a.toNat < 0x1000 ∨ (0x1100 ≤ a.toNat ∧ a.toNat < 0x1180))
  | .read32 a => decide (a.toNat < 0x1000 ∨ (0x1100 ≤ a.toNat ∧ a.toNat < 0x1180))
  | .write8 a _ => decide (a.toNat < 0x1004 ∨ (0x100C ≤ a.toNat ∧ a.toNat < 0x1020))
  | .write32 a _ => decide (a.toNat < 0x1004 ∨ (0x100C ≤ a.toNat ∧ a.toNat < 0x1020))

/-- What a refused transaction returns: 0 of its width, and nothing for a write (20_memory.md R61). -/
def refusedReadData (s : State) : BusOp → ReadData
  | .read8 _ => .byte 0
  | .read32 _ => .word 0
  | .write8 _ _ => s.readData
  | .write32 _ _ => s.readData

/-- The next event leaves the all-zero session: a hardware reset, a soft reset, or the engine's turn with HSRST pending
(43_handshake.md R229, R232). -/
def SessionResetNext (s : State) : Prop :=
  match (nextEvent s).1 with
  | .hardReset => True
  | .bus op => isSoftReset op = true
  | .engine => s.status.busy = true ∧ decode s.latch = .ok .hsrst

end Sys2Proof.Machine
end

