-- ==== Sys2Proof/Certificates/Slice0/Obligations.lean ====
section
/-! DEFINITION. The statements for the provers. Each docstring names the rule of spec/ it formalises; where a clause rests on a
choice of the model, it names the log entry. -/

open Sys2Proof Sys2Proof.Machine

/-! ## Encoding -/

/-- 30_encoding.md R91, R93: a word decodes to a command exactly when it is that command's word. -/
def Obligations.DecodeIsInverseOfEncode : Prop :=
  ∀ (w : Word) (i : Instr), decode w = .ok i ↔ w = encode i

/-- 30_encoding.md R93: the words of the table. -/
def Obligations.TableWordsDecode : Prop :=
  decode 0x00000001 = .ok .cksum ∧ decode 0x00000002 = .ok .norm ∧ decode 0x00000003 = .ok .blkD ∧
  decode 0x00000043 = .ok .blkE ∧ decode 0x00000004 = .ok .tcbcD ∧ decode 0x00000044 = .ok .tcbcE ∧
  decode 0x00000005 = .ok .macV ∧ decode 0x00000045 = .ok .macG ∧ decode 0x00000085 = .ok .macVS ∧
  decode 0x000000C5 = .ok .macGS ∧ decode 0x00000006 = .ok .acr ∧ decode 0x00000007 = .ok .hsrst ∧
  decode 0x00000008 = .ok .hsstep ∧ decode 0x00000009 = .ok .hsrun

/-- 30_encoding.md R96, R97: every word not among the 14 of R93 is illegal, which words those are, and that executing one raises
E_ILLEGAL with nothing else written. -/
def Obligations.IllegalWordsRaiseError : Prop :=
  (∀ w : Word, (∀ i, decode w ≠ .ok i) ↔ w.toNat ∉ [0x00000001, 0x00000002, 0x00000003, 0x00000043, 0x00000004, 0x00000044,
    0x00000005, 0x00000045, 0x00000085, 0x000000C5, 0x00000006, 0x00000007, 0x00000008, 0x00000009]) ∧
  (∀ w : Word, (∀ i, decode w ≠ .ok i) ↔
    (w.toNat / 256 ≠ 0 ∨ w.toNat % 64 = 0 ∨ 0x0A ≤ w.toNat % 64 ∨
      (w.toNat / 64 % 2 = 1 ∧ w.toNat % 64 ∈ [0x01, 0x02, 0x06, 0x07, 0x08, 0x09]) ∨
      (w.toNat / 128 % 2 = 1 ∧ w.toNat % 64 ≠ 0x05))) ∧
  (∀ s : State, s.status.busy = true → (∀ i, decode s.latch ≠ .ok i) → engineStep s = .next (errorState .illegal s))

/-! ## Steps and events -/

/-- 10_state.md R31, 20_memory.md R75: with a command pending and the engine's turn next (at the head of the schedule, or with
no event left), a step is `exec` of the decoded command on the state with the turn taken off the schedule. The schedule is the
model's own (log 1, 13). -/
def Obligations.StepRunsDecodedCommand : Prop :=
  ∀ (s : State) (es : List Event) (i : Instr), s.status.busy = true → decode s.latch = .ok i →
    (s.schedule = .engine :: es → step s = exec i { s with schedule := es }) ∧
    (s.schedule = [] → step s = exec i s)

/-- 20_memory.md R74, 70_reset_and_hazards.md R290: a host transaction or a hardware reset at the head of the schedule takes
effect, one event a step; 60_exceptions.md R275: with no event left and BUSY = 0 nothing changes (log 1, 13). -/
def Obligations.StepTakesNextEvent : Prop :=
  ∀ (s : State) (es : List Event) (op : BusOp),
    (s.schedule = .bus op :: es → step s = .next (busStep op { s with schedule := es })) ∧
    (s.schedule = .hardReset :: es → step s = .next (hardReset { s with schedule := es })) ∧
    (s.status.busy = false → s.schedule = .engine :: es → step s = .next { s with schedule := es }) ∧
    (s.status.busy = false → s.schedule = [] → step s = .next s)

/-- 60_exceptions.md R264: an engine step that ends leaves BUSY = 0 and DONE = 1, and without an error ERR and ERRCODE are
clear; with one, both are set. -/
def Obligations.EngineStepCompletes : Prop :=
  ∀ s t : State, statusInv s.status → s.status.busy = true → engineStep s = .next t →
    t.status.busy = false ∧ t.status.done = true ∧
    ((t.status.err = false ∧ t.status.errcode = .none) ∨
      (t.status.err = true ∧ t.status.errcode ≠ .none ∧ t.status.result = false)) ∧
    t.status.ovr = s.status.ovr ∧ t.status.berr = s.status.berr

/-- 60_exceptions.md R261: a command that raises a command error has no effect except its completion flags. -/
def Obligations.CommandErrorChangesOnlyReport : Prop :=
  ∀ s t : State, s.status.busy = true → s.status.err = false → engineStep s = .next t → t.status.err = true →
    t = { s with status :=
      { s.status with errcode := t.status.errcode, err := true, busy := false, done := true } }

/-- 60_exceptions.md R262 step 3, R260: a command that reads LEN raises E_LEN when LEN is no multiple of 8, whatever its
regions are. -/
def Obligations.LengthErrors : Prop :=
  ∀ (i : Instr) (s : State), readsLen i = true → s.len.toNat % 8 ≠ 0 → exec i s = .next (errorState .len s)

/-- 60_exceptions.md R262 step 4, 30_encoding.md R95: with a legal length, a region that does not fit in DMEM raises E_RANGE;
CKSUM's second region depends on the length byte it reads (40_packet.md R121). -/
def Obligations.RangeErrors : Prop :=
  (∀ (i : Instr) (s : State), (readsLen i = true → s.len.toNat % 8 = 0) →
    (∃ r ∈ operandRegions i s, 4096 < r.1 + r.2) → exec i s = .next (errorState .range s)) ∧
  (∀ (s : State) (l : Byte), s.src.toNat + 5 ≤ 4096 → memGet? s.dmem (s.src.toNat + 4) = some l →
    4096 < s.src.toNat + 6 + l.toNat → exec .cksum s = .next (errorState .range s))

/-- 43_handshake.md R229, 60_exceptions.md R262 step 2: in a terminal state HSSTEP and HSRUN raise E_STATE and change nothing
else, whatever DMEM holds; no event but a reset, and no command but HSRST, takes the sequencer out of it. -/
def Obligations.TerminalStatesAreFinal : Prop :=
  ∀ s : State, s.session.hsState = .complete ∨ s.session.hsState = .failed →
    exec .hsstep s = .next (errorState .state s) ∧ exec .hsrun s = .next (errorState .state s) ∧
    (∀ i t, i ≠ .hsrst → exec i s = .next t → t.session = s.session) ∧
    (∀ op, isSoftReset op = false → (busStep op s).session = s.session)

/-- 20_memory.md R65: a command stops only on a DMEM byte that it reads and that is unwritten, and it stops wherever it reads one:
with a legal length and fitting regions, if a byte it reads is unwritten it faults, and the fault names the command and such a byte.
A fault of a later transition of HSRUN is the fault of HSRUN. No command is refused. -/
def Obligations.CommandsStopOnlyOnUnwrittenBytes : Prop :=
  (∀ (i : Instr) (s : State), (∀ r, exec i s ≠ .refused r) ∧
    ∀ f, exec i s = .fault f → ∃ a, CommandReads i s a ∧ a < 4096 ∧ memGet? s.dmem a = none ∧ f = .unwrittenRead i a) ∧
  (∀ (i : Instr) (s : State) (x : Nat), (readsLen i = true → s.len.toNat % 8 = 0) →
    (∀ r ∈ operandRegions i s, r.1 + r.2 ≤ 4096) → CommandReads i s x → memGet? s.dmem x = none →
    ∃ a, CommandReads i s a ∧ memGet? s.dmem a = none ∧ exec i s = .fault (.unwrittenRead i a)) ∧
  (∀ (s u : State) (f : Fault), exec .hsstep s = .next u → exec .hsrun u = .fault f → exec .hsrun s = .fault f)

/-- 20_memory.md R65: an unwritten byte of BLK's key or block faults; of several, the first in reading order is named, the key
before the block (the order within the fault is the model's reading of the pseudocode: log 4). -/
def Obligations.BlkFaultsOnUnwrittenByte : Prop :=
  ∀ (s : State) (n : Nat), n < 8 → s.src.toNat + 8 ≤ 4096 → s.key.toNat + 8 ≤ 4096 → s.dst.toNat + 8 ≤ 4096 →
    (Written s.dmem s.key.toNat n → memGet? s.dmem (s.key.toNat + n) = none →
      exec .blkE s = .fault (.unwrittenRead .blkE (s.key.toNat + n)) ∧
      exec .blkD s = .fault (.unwrittenRead .blkD (s.key.toNat + n))) ∧
    (Written s.dmem s.key.toNat 8 → Written s.dmem s.src.toNat n → memGet? s.dmem (s.src.toNat + n) = none →
      exec .blkE s = .fault (.unwrittenRead .blkE (s.src.toNat + n)) ∧
      exec .blkD s = .fault (.unwrittenRead .blkD (s.src.toNat + n)))

/-- 70_reset_and_hazards.md R293: with every byte of its row of the table written, every command gives a next state. -/
def Obligations.LoadedCommandsComplete : Prop :=
  ∀ (i : Instr) (s : State), LoadedFor i s → ∃ t, exec i s = .next t

/-! ## Frames over all commands -/

/-- 10_state.md R22: no command writes an operand register; nor CTRL, LATCH, OVR or BERR (10_state.md R25, R26, R30), nor a
field of the model's own; RESULT is written by CKSUM, HSSTEP and HSRUN alone (10_state.md R32). -/
def Obligations.CommandsKeepRegisters : Prop :=
  ∀ (i : Instr) (s t : State), exec i s = .next t →
    KeepsRegisters s t ∧ t.status.ovr = s.status.ovr ∧ t.status.berr = s.status.berr ∧
    (i ≠ .cksum → i ≠ .hsstep → i ≠ .hsrun → t.status.result = s.status.result)

/-- 30_encoding.md R94, 43_handshake.md R212: a command leaves every DMEM byte outside its output region as it was; the region
starts at DST and is empty for CKSUM and the handshake commands. -/
def Obligations.CommandsWriteOnlyOutputRegion : Prop :=
  ∀ (i : Instr) (s t : State) (x : Nat), exec i s = .next t →
    x < (outputRegion i s).1 ∨ (outputRegion i s).1 + (outputRegion i s).2 ≤ x → memGet? t.dmem x = memGet? s.dmem x

/-- 10_state.md R44: only HSRST, HSSTEP, HSRUN and reset write the session registers; no other command, no illegal word and no
host access does. -/
def Obligations.SessionIsWrittenOnlyByHandshake : Prop :=
  (∀ (i : Instr) (s t : State), i ≠ .hsrst → i ≠ .hsstep → i ≠ .hsrun → exec i s = .next t → t.session = s.session) ∧
  (∀ s t : State, (∀ i, decode s.latch ≠ .ok i) → engineStep s = .next t → t.session = s.session) ∧
  (∀ (op : BusOp) (s : State), isSoftReset op = false → (busStep op s).session = s.session)

/-! ## Packet checker -/

/-- 40_packet.md R120: XorFold is the exclusive-or of the bytes, 0x00 of none, and PacketOK compares it with the checksum
byte. -/
def Obligations.XorFoldAndPacketOk : Prop :=
  xorFold [] = 0 ∧ (∀ b bs, xorFold (b :: bs) = b ^^^ xorFold bs) ∧
  ∀ (m : Memory) (a : Nat) (l : Byte) (body : Bytes l.toNat) (ck : Byte), PacketIs m a l body ck →
    packetOk m a = .ok (decide (xorFold body.toList = ck))

/-- 40_packet.md R121: CKSUM sets RESULT to whether the fold of the body is the checksum byte, and writes nothing else. -/
def Obligations.CksumComputesResult : Prop :=
  ∀ (s : State) (l : Byte) (body : Bytes l.toNat) (ck : Byte), s.src.toNat + 6 + l.toNat ≤ 4096 →
    PacketIs s.dmem s.src.toNat l body ck →
    exec .cksum s = .next { s with status :=
      { s.status with result := decide (body.toList.foldl (· ^^^ ·) 0 = ck), busy := false, done := true } }

/-- 40_packet.md R121: a packet that passes fails once a single body byte or the checksum byte is changed. -/
def Obligations.CksumDetectsSingleByteChange : Prop :=
  ∀ (s t : State) (l : Byte) (n : Nat) (v d : Byte), s.status.result = false → exec .cksum s = .next t →
    t.status.result = true → memGet? s.dmem (s.src.toNat + 4) = some l → n ≤ l.toNat →
    memGet? s.dmem (s.src.toNat + 5 + n) = some v → d ≠ 0 →
    ∃ u, exec .cksum { s with dmem := memSet s.dmem (s.src.toNat + 5 + n) (v ^^^ d) } = .next u ∧
      u.status.result = false ∧ u.status.err = s.status.err

/-- 40_packet.md R123: the layout of the descriptor, byte by byte. -/
def Obligations.NormalizeLayout : Prop :=
  ∀ (P : Params) (b : Bytes 23), (normalizePacket P b).toList = descriptorBytes P b

/-- 40_packet.md R125: NORM stores the 32 bytes of the descriptor at DST. -/
def Obligations.NormStoresDescriptor : Prop :=
  ∀ (s : State) (b : Bytes 23), s.src.toNat + 28 ≤ 4096 → s.dst.toNat + 32 ≤ 4096 →
    memRead s.dmem (s.src.toNat + 5) 23 = .ok b →
    CompletesStoring .norm s s.dst.toNat (descriptorBytes Config.params b)

/-! ## Triple cipher -/

/-- 41_cipher.md R145, R146: BLK.E and BLK.D store the encryption or decryption of the block at SRC under the key at KEY. -/
def Obligations.BlkStoresOneBlock : Prop :=
  ∀ (s : State) (k x : Block), s.src.toNat + 8 ≤ 4096 → s.key.toNat + 8 ≤ 4096 → s.dst.toNat + 8 ≤ 4096 →
    memRead s.dmem s.key.toNat 8 = .ok k → memRead s.dmem s.src.toNat 8 = .ok x →
    CompletesStoring .blkE s s.dst.toNat (Config.params.cipher k x).toList ∧
    CompletesStoring .blkD s s.dst.toNat ((Config.params.cipher k).symm x).toList

/-- 41_cipher.md R146: BLK.D after BLK.E under the same key restores the block, where the key is not overwritten. -/
def Obligations.BlkDecryptsWhatBlkEncrypted : Prop :=
  ∀ (s t : State) (k x : Block) (d : DmemAddr), s.status.busy = true → statusInv s.status →
    memRead s.dmem s.key.toNat 8 = .ok k → memRead s.dmem s.src.toNat 8 = .ok x →
    s.key.toNat + 8 ≤ s.dst.toNat ∨ s.dst.toNat + 8 ≤ s.key.toNat → d.toNat + 8 ≤ 4096 →
    exec .blkE s = .next t → t.status.err = false →
    CompletesStoring .blkD { t with src := s.dst, dst := d } d.toNat x.toList

/-- 41_cipher.md R143, R147: TCBC.E stores the chained ciphertext: block i is EDE(A, B, A) of the plaintext block XORed with the
ciphertext block before it, zero before the first. -/
def Obligations.TcbcEncryptStoresChain : Prop :=
  ∀ (s : State) (n : Nat) (k : Bytes 16) (p : Vector Block n), s.len.toNat = 8 * n → s.src.toNat + 8 * n ≤ 4096 →
    s.key.toNat + 16 ≤ 4096 → s.dst.toNat + 8 * n ≤ 4096 → memRead s.dmem s.key.toNat 16 = .ok k →
    memReadBlocks s.dmem s.src.toNat n = .ok p →
    ∃ y : Vector Block n,
      (∀ i (h : i < n), y[i] = enc3 k (xorBytes p[i] (if i = 0 then zeros 8 else y[i - 1]))) ∧
      CompletesStoring .tcbcE s s.dst.toNat (blockBytes y.toList)

/-- 41_cipher.md R143, R148: TCBC.D stores the chained plaintext: block i is DED(A, B, A) of the ciphertext block, XORed with the
ciphertext block before it, zero before the first. -/
def Obligations.TcbcDecryptStoresChain : Prop :=
  ∀ (s : State) (n : Nat) (k : Bytes 16) (ct : Vector Block n), s.len.toNat = 8 * n → s.src.toNat + 8 * n ≤ 4096 →
    s.key.toNat + 16 ≤ 4096 → s.dst.toNat + 8 * n ≤ 4096 → memRead s.dmem s.key.toNat 16 = .ok k →
    memReadBlocks s.dmem s.src.toNat n = .ok ct →
    ∃ y : Vector Block n,
      (∀ i (h : i < n), y[i] = xorBytes (dec3 k ct[i]) (if i = 0 then zeros 8 else ct[i - 1])) ∧
      CompletesStoring .tcbcD s s.dst.toNat (blockBytes y.toList)

/-- 41_cipher.md R144: the triple cipher's round trip, and what each block depends on. -/
def Obligations.TcbcRoundTrip : Prop :=
  ∀ (P : Params) (n : Nat) (k : Bytes 16) (p q : Vector Block n),
    tcbcDec P k (tcbcEnc P k p) = p ∧ tcbcEnc P k (tcbcDec P k p) = p ∧
    (∀ i (h : i < n), (∀ j (hj : j ≤ i), p[j] = q[j]) → (tcbcEnc P k p)[i] = (tcbcEnc P k q)[i]) ∧
    (∀ i (h : i < n), p[i] = q[i] → (0 < i → p[i - 1] = q[i - 1]) → (tcbcDec P k p)[i] = (tcbcDec P k q)[i])

/-- 41_cipher.md R149: with equal key halves the triple cipher is single-key CBC. -/
def Obligations.EqualHalvesGiveSingleKeyCbc : Prop :=
  ∀ (P : Params) (n : Nat) (k : Bytes 16) (p : Vector Block n), lo8 k = hi8 k →
    (∀ x, ede P (lo8 k) (lo8 k) (lo8 k) x = blockEnc P (lo8 k) x) ∧
    (∀ y, ded P (lo8 k) (lo8 k) (lo8 k) y = blockDec P (lo8 k) y) ∧
    (∀ i (h : i < n), (tcbcEnc P k p)[i] =
      blockEnc P (lo8 k) (xorBytes p[i] (if i = 0 then zeros 8 else (tcbcEnc P k p)[i - 1]))) ∧
    (∀ i (h : i < n), (tcbcDec P k p)[i] =
      xorBytes (blockDec P (lo8 k) p[i]) (if i = 0 then zeros 8 else p[i - 1]))

/-- 41_cipher.md R147, R148; 95_test_vectors.md P-1: TCBC.D of what TCBC.E stored gives the plaintext back, where the
ciphertext does not overwrite the key. -/
def Obligations.TcbcCommandsRoundTrip : Prop :=
  ∀ (s : State) (n : Nat) (k : Bytes 16) (p : Vector Block n) (d : DmemAddr), s.len.toNat = 8 * n →
    s.src.toNat + 8 * n ≤ 4096 → s.key.toNat + 16 ≤ 4096 → s.dst.toNat + 8 * n ≤ 4096 → d.toNat + 8 * n ≤ 4096 →
    s.key.toNat + 16 ≤ s.dst.toNat ∨ s.dst.toNat + 8 * n ≤ s.key.toNat →
    memRead s.dmem s.key.toNat 16 = .ok k → memReadBlocks s.dmem s.src.toNat n = .ok p →
    ∃ t, exec .tcbcE s = .next t ∧
      CompletesStoring .tcbcD { t with src := s.dst, dst := d } d.toNat (blockBytes p.toList)

/-! ## MAC engine and ACR combiner -/

/-- 42_mac_acr.md R171: the salt increment is addition of 1 modulo 2^64 on the big-endian value, with its corner cases. -/
def Obligations.SaltIncrement : Prop :=
  (∀ x : Block, be64 (saltInc x) = (be64 x + 1) % 2 ^ 64) ∧
  saltInc #v[0xFF, 0xFF, 0xFF, 0xFF, 0xFF, 0xFF, 0xFF, 0xFF] = zeros 8 ∧
  saltInc #v[0, 0, 0, 0, 0, 0, 0, 0xFF] = #v[0, 0, 0, 0, 0, 0, 1, 0]

/-- 42_mac_acr.md R170, R174, R176: MAC.G and MAC.V store the 8-byte MAC of the data, folded from a zero seed. That verify mode
gives the same MAC is R173. -/
def Obligations.UnsaltedMacsStoreMac : Prop :=
  ∀ (s : State) (n : Nat) (k : Bytes 16) (data : Vector Block n), s.len.toNat = 8 * n → s.src.toNat + 8 * n ≤ 4096 →
    s.key.toNat + 16 ≤ 4096 → s.dst.toNat + 8 ≤ 4096 → memRead s.dmem s.key.toNat 16 = .ok k →
    memReadBlocks s.dmem s.src.toNat n = .ok data →
    ∃ c : Nat → Block, c 0 = zeros 8 ∧ (∀ i (h : i < n), c (i + 1) = macStep k (c i) data[i]) ∧
      CompletesStoring .macG s s.dst.toNat (macEnd k (c n)).toList ∧
      CompletesStoring .macV s s.dst.toNat (macEnd k (c n)).toList

/-- 42_mac_acr.md R170, R175: MAC.GS increments the salt, seeds the fold with its encryption, and stores the MAC and the new
salt. -/
def Obligations.MacGenerateWithSalt : Prop :=
  ∀ (s : State) (n : Nat) (k : Bytes 16) (data : Vector Block n) (salt : Block), s.len.toNat = 8 * n →
    s.src.toNat + 8 * n ≤ 4096 → s.key.toNat + 16 ≤ 4096 → s.aux.toNat + 8 ≤ 4096 → s.dst.toNat + 16 ≤ 4096 →
    memRead s.dmem s.key.toNat 16 = .ok k → memReadBlocks s.dmem s.src.toNat n = .ok data →
    memRead s.dmem s.aux.toNat 8 = .ok salt →
    ∃ (saltOut : Block) (c : Nat → Block), be64 saltOut = (be64 salt + 1) % 2 ^ 64 ∧
      c 0 = blockEnc Config.params (lo8 k) saltOut ∧ (∀ i (h : i < n), c (i + 1) = macStep k (c i) data[i]) ∧
      CompletesStoring .macGS s s.dst.toNat ((macEnd k (c n)).toList ++ saltOut.toList)

/-- 42_mac_acr.md R170, R177: MAC.VS folds from a zero seed whatever the salt, and stores the MAC and the salt unchanged. -/
def Obligations.MacVerifyWithSalt : Prop :=
  ∀ (s : State) (n : Nat) (k : Bytes 16) (data : Vector Block n) (salt : Block), s.len.toNat = 8 * n →
    s.src.toNat + 8 * n ≤ 4096 → s.key.toNat + 16 ≤ 4096 → s.aux.toNat + 8 ≤ 4096 → s.dst.toNat + 16 ≤ 4096 →
    memRead s.dmem s.key.toNat 16 = .ok k → memReadBlocks s.dmem s.src.toNat n = .ok data →
    memRead s.dmem s.aux.toNat 8 = .ok salt →
    ∃ c : Nat → Block, c 0 = zeros 8 ∧ (∀ i (h : i < n), c (i + 1) = macStep k (c i) data[i]) ∧
      CompletesStoring .macVS s s.dst.toNat ((macEnd k (c n)).toList ++ salt.toList)

/-- 42_mac_acr.md R173: verify without a salt is generate without a salt; verify with a salt has that MAC and the salt as
given. -/
def Obligations.VerifyMacEqualsUnsaltedGenerate : Prop :=
  ∀ (P : Params) (k : Bytes 16) (data : List Block) (salt : Block),
    mac P k none data .ver = mac P k none data .gen ∧
    mac P k (some salt) data .ver = (some salt, (mac P k none data .gen).2)

/-- 42_mac_acr.md R180, R181: ACR stores the combination of the descriptor, the certificate bytes, the key and the tables. -/
def Obligations.AcrStoresResponse : Prop :=
  ∀ (s : State) (desc : Bytes 32) (k : Block) (cert : Bytes 4) (sbox : Bytes 256) (ref : Bytes 128),
    s.src.toNat + 32 ≤ 4096 → s.key.toNat + 8 ≤ 4096 → s.aux.toNat + 4 ≤ 4096 → s.dst.toNat + 8 ≤ 4096 →
    memRead s.dmem s.src.toNat 32 = .ok desc → memRead s.dmem s.key.toNat 8 = .ok k →
    memRead s.dmem s.aux.toNat 4 = .ok cert → memRead s.dmem 0x040 256 = .ok sbox → memRead s.dmem 0x140 128 = .ok ref →
    CompletesStoring .acr s s.dst.toNat (acrValue sbox ref k cert desc).toList

/-! ## Handshake sequencer -/

/-- 43_handshake.md R232: the word 0x00000007 is HSRST, which makes every session register zero and the sequencer Init, and
touches nothing else. -/
def Obligations.HsrstZeroesSession : Prop :=
  decode 0x00000007 = .ok .hsrst ∧ ∀ s : State, exec .hsrst s = .next { s with
    session :=
      { nonce := zeros 16, cert := zeros 8, expacr := zeros 8, renc := zeros 16, rsenc := zeros 16, usbr := zeros 16,
        chash := zeros 16, desc := zeros 32, hsState := .init, failKind := .noFailure, failAt := .init }
    status := { s.status with busy := false, done := true } }

/-- 43_handshake.md R213, R212: T0 checks packet 1 and keeps its descriptor. -/
def Obligations.TransitionFromInit : Prop :=
  ∀ (s : State) (l : Byte) (body : Bytes l.toNat) (ck : Byte), s.session.hsState = .init →
    PacketIs s.dmem 0x200 l body ck →
    (xorFold body.toList ≠ ck → exec .hsstep s = .next (failedState s .checksumMismatch s.session)) ∧
    (∀ b : Bytes 23, xorFold body.toList = ck → memRead s.dmem 0x205 23 = .ok b →
      ∃ d : Bytes 32, d.toList = descriptorBytes Config.params b ∧
        exec .hsstep s = .next (passedState s .identified { s.session with desc := d }))

/-- 43_handshake.md R214, R215, R216, R212: T1 checks packet 2, stores the nonce, the certificate and the two derived keys, and
then compares 4 bytes of the MAC of the received ciphertext. -/
def Obligations.TransitionFromIdentified : Prop :=
  ∀ (s : State) (l : Byte) (body : Bytes l.toNat) (ck : Byte), s.session.hsState = .identified →
    PacketIs s.dmem 0x400 l body ck →
    (xorFold body.toList ≠ ck → exec .hsstep s = .next (failedState s .checksumMismatch s.session)) ∧
    (∀ (c0 c1 c2 : Block) (k1 k2 fsk0 fsk1 : Bytes 16) (field : Bytes 4), xorFold body.toList = ck →
      memReadBlocks s.dmem 0x405 3 = .ok #v[c0, c1, c2] → memRead s.dmem 0x000 16 = .ok k1 →
      memRead s.dmem 0x010 16 = .ok k2 → memRead s.dmem 0x020 16 = .ok fsk0 → memRead s.dmem 0x030 16 = .ok fsk1 →
      memRead s.dmem 0x41D 4 = .ok field →
      ∀ p0 p1 m : Block, p0 = dec3 k1 c0 → p1 = xorBytes (dec3 k1 c1) c0 →
      m = macEnd k2 (macStep k2 (macStep k2 (macStep k2 (zeros 8) c0) c1) c2) →
      ∀ S : Session, S = { s.session with
        nonce := cat16 p0 p1
        cert := xorBytes (dec3 k1 c2) c1
        renc := cat16 (enc3 fsk0 p0) (enc3 fsk0 (xorBytes p1 (enc3 fsk0 p0)))
        rsenc := cat16 (enc3 fsk1 p1) (enc3 fsk1 (xorBytes p0 (enc3 fsk1 p1))) } →
      ((match Config.params.mac4Sel with | .low => slice m 4 4 | .high => slice m 0 4) ≠ field →
        exec .hsstep s = .next (failedState s .macMismatch S)) ∧
      ((match Config.params.mac4Sel with | .low => slice m 4 4 | .high => slice m 0 4) = field →
        exec .hsstep s = .next (passedState s .challenged S)))

/-- 43_handshake.md R217 to R221, R212: T2 checks packet 3, stores usb_random, compares the nonce, then the ACR, and stores the
content hash when both agree. -/
def Obligations.TransitionFromChallenged : Prop :=
  ∀ (s : State) (l : Byte) (body : Bytes l.toNat) (ck : Byte), s.session.hsState = .challenged →
    PacketIs s.dmem 0x600 l body ck →
    (xorFold body.toList ≠ ck → exec .hsstep s = .next (failedState s .checksumMismatch s.session)) ∧
    (∀ c0 c1 c2 c3 : Block, xorFold body.toList = ck → memReadBlocks s.dmem 0x605 4 = .ok #v[c0, c1, c2, c3] →
      ∀ p0 p1 p2 p3 m : Block, p0 = dec3 s.session.renc c0 → p1 = xorBytes (dec3 s.session.renc c1) c0 →
      p2 = xorBytes (dec3 s.session.renc c2) c1 → p3 = xorBytes (dec3 s.session.renc c3) c2 →
      m = macEnd s.session.rsenc (macStep s.session.rsenc (macStep s.session.rsenc (macStep s.session.rsenc
        (macStep s.session.rsenc (zeros 8) c0) c1) c2) c3) →
      (s.session.nonce ≠ cat16 p2 p3 →
        exec .hsstep s = .next (failedState s .nonceMismatch { s.session with usbr := cat16 p0 p1 })) ∧
      (∀ (sbox : Bytes 256) (ref : Bytes 128) (field : Bytes 8), s.session.nonce = cat16 p2 p3 →
        memRead s.dmem 0x040 256 = .ok sbox → memRead s.dmem 0x140 128 = .ok ref → memRead s.dmem 0x625 8 = .ok field →
        (acrValue sbox ref m (slice s.session.cert 0 4) s.session.desc ≠ field →
          exec .hsstep s = .next (failedState s .acrMismatch { s.session with usbr := cat16 p0 p1 })) ∧
        (acrValue sbox ref m (slice s.session.cert 0 4) s.session.desc = field →
          exec .hsstep s = .next (passedState s .responseReceived { s.session with
            usbr := cat16 p0 p1
            chash := Config.params.contentHash (cat (cat16 c0 c1) (cat16 c2 c3))
              (cat (cat16 p0 p1) (cat16 p2 p3)) }))))

/-- 43_handshake.md R222 to R225, R212: T3 interchanges the last 4 bytes of NONCE and USBR, checks packet 4, stores the decrypted
block in NONCE[8:16] and the updated salt in NONCE[0:8], and then compares the MAC. -/
def Obligations.TransitionFromResponseReceived : Prop :=
  ∀ (s : State) (l : Byte) (body : Bytes l.toNat) (ck : Byte), s.session.hsState = .responseReceived →
    PacketIs s.dmem 0x800 l body ck →
    ∀ nonce usbr : Bytes 16, nonce.toList = s.session.nonce.toList.take 12 ++ s.session.usbr.toList.drop 12 →
    usbr.toList = (match Config.params.xchg with
      | .swap => s.session.usbr.toList.take 12 ++ s.session.nonce.toList.drop 12
      | .copy => s.session.usbr.toList) →
    (xorFold body.toList ≠ ck →
      exec .hsstep s = .next (failedState s .checksumMismatch { s.session with nonce := nonce, usbr := usbr })) ∧
    (∀ (c field salt : Block), xorFold body.toList = ck → memRead s.dmem 0x805 8 = .ok c →
      memRead s.dmem 0x80D 8 = .ok field → be64 salt = (be64 (lo8 s.session.nonce) + 1) % 2 ^ 64 →
      ∀ m : Block, m = macEnd s.session.chash (macStep s.session.chash
        (blockEnc Config.params (lo8 s.session.chash) salt) c) →
      ∀ S : Session, S = { s.session with nonce := cat16 salt (dec3 usbr c), usbr := usbr } →
      (m ≠ field → exec .hsstep s = .next (failedState s .macMismatch S)) ∧
      (m = field → exec .hsstep s = .next (passedState s .verified1 S)))

/-- 43_handshake.md R226, R227, R212: T4 checks packet 5, stores the expected ACR and the updated salt, and then compares the
MAC. -/
def Obligations.TransitionFromVerified : Prop :=
  ∀ (s : State) (l : Byte) (body : Bytes l.toNat) (ck : Byte), s.session.hsState = .verified1 →
    PacketIs s.dmem 0xA00 l body ck →
    (xorFold body.toList ≠ ck → exec .hsstep s = .next (failedState s .checksumMismatch s.session)) ∧
    (∀ (c field salt : Block), xorFold body.toList = ck → memRead s.dmem 0xA05 8 = .ok c →
      memRead s.dmem 0xA0D 8 = .ok field → be64 salt = (be64 (lo8 s.session.nonce) + 1) % 2 ^ 64 →
      ∀ m : Block, m = macEnd s.session.rsenc (macStep s.session.rsenc
        (blockEnc Config.params (lo8 s.session.rsenc) salt) c) →
      ∀ S : Session, S = { s.session with
        expacr := dec3 s.session.renc c, nonce := cat16 salt (hi8 s.session.nonce) } →
      (m ≠ field → exec .hsstep s = .next (failedState s .macMismatch S)) ∧
      (m = field → exec .hsstep s = .next (passedState s .responseVerified1 S)))

/-- 43_handshake.md R228, R212: T5 compares the ACR of the nonce's last 8 bytes with the expected one. -/
def Obligations.TransitionFromResponseVerified : Prop :=
  ∀ (s : State) (sbox : Bytes 256) (ref : Bytes 128), s.session.hsState = .responseVerified1 →
    memRead s.dmem 0x040 256 = .ok sbox → memRead s.dmem 0x140 128 = .ok ref →
    (acrValue sbox ref (hi8 s.session.nonce) (slice s.session.cert 0 4) s.session.desc ≠ s.session.expacr →
      exec .hsstep s = .next (failedState s .acrMismatch s.session)) ∧
    (acrValue sbox ref (hi8 s.session.nonce) (slice s.session.cert 0 4) s.session.desc = s.session.expacr →
      exec .hsstep s = .next (passedState s .complete s.session))

/-- 43_handshake.md R231, 70_reset_and_hazards.md R293: with every byte the handshake may read written and the sequencer not in
a terminal state, HSRUN completes in Complete or Failed, with RESULT = 1 exactly for Complete; DMEM, the registers and the
other flags stay. -/
def Obligations.HsrunReachesTerminalState : Prop :=
  ∀ s : State, s.session.hsState ≠ .complete → s.session.hsState ≠ .failed →
    (∀ st, TransitionLoaded s.dmem st) →
    ∃ S : Session, (S.hsState = .complete ∨ S.hsState = .failed) ∧
      exec .hsrun s = .next { s with
        session := S
        status := { s.status with result := decide (S.hsState = .complete), busy := false, done := true } }

/-- 43_handshake.md R231: HSRUN is HSSTEP repeated: its session is the end of a chain of at most 6 HSSTEPs from states that are
not terminal, and the chain's end is terminal. Conversely, wherever such a chain of HSSTEPs ends in a terminal state, HSRUN completes
with the session of its end and RESULT = 1 exactly for Complete, whatever other bytes of DMEM are unwritten. -/
def Obligations.HsrunIsRepeatedHsstep : Prop :=
  (∀ s t : State, s.session.hsState ≠ .complete → s.session.hsState ≠ .failed → exec .hsrun s = .next t →
    ∃ (n : Nat) (S : Nat → Session), 1 ≤ n ∧ n ≤ 6 ∧ S n = t.session ∧
      (t.session.hsState = .complete ∨ t.session.hsState = .failed) ∧ HsstepChain s n S) ∧
  (∀ (s : State) (n : Nat) (S : Nat → Session), 1 ≤ n → HsstepChain s n S →
    (S n).hsState = .complete ∨ (S n).hsState = .failed →
    exec .hsrun s = .next { s with
      session := S n
      status := { s.status with result := decide ((S n).hsState = .complete), busy := false, done := true } })

/-- 43_handshake.md R234 item 1: HS_STATE never decreases but where the event of the step is a hardware reset, a soft reset or the
engine's step on HSRST, which leave the session of reset; a transition raises it by 1 or sets it to Failed. -/
def Obligations.SequencerNeverGoesBack : Prop :=
  (∀ s t : State, step s = .next t →
    (¬ SessionResetNext s → (hsStateBits s.session.hsState).toNat ≤ (hsStateBits t.session.hsState).toNat) ∧
    (SessionResetNext s → t.session = Session.reset)) ∧
  (∀ s t : State, s.session.hsState ≠ .complete → s.session.hsState ≠ .failed → exec .hsstep s = .next t →
    t.session.hsState = .failed ∨
      (hsStateBits t.session.hsState).toNat = (hsStateBits s.session.hsState).toNat + 1)

/-! ## The host's side -/

/-- 10_state.md R24: a CMD write is accepted with BUSY = 0, whatever the word; with BUSY = 1 it is dropped and sets OVR; CMD
reads 0. -/
def Obligations.CmdWriteStartsCommand : Prop :=
  ∀ (s : State) (w : Word),
    (s.status.busy = false → busStep (.write32 0x1000 w) s = { s with
      latch := w
      status := { s.status with busy := true, done := false, err := false, result := false, errcode := .none } }) ∧
    (s.status.busy = true → busStep (.write32 0x1000 w) s = { s with status := { s.status with ovr := true } }) ∧
    busStep (.read32 0x1000) s = { s with readData := .word 0 }

/-- 10_state.md R25, 20_memory.md R76: the bits STATUS reads as, whatever BUSY is; a write clears the four write-1-to-clear bits
that are written as 1 and nothing else. -/
def Obligations.StatusReadsAndClears : Prop :=
  ∀ (s : State) (w : Word),
    (∃ v : Word, busStep (.read32 0x1004) s = { s with readData := .word v } ∧
      v.toNat = s.status.busy.toNat + 2 * s.status.done.toNat + 4 * s.status.err.toNat + 8 * s.status.result.toNat +
        16 * s.status.ovr.toNat + 32 * s.status.berr.toNat + 256 * (errCodeBits s.status.errcode).toNat) ∧
    busStep (.write32 0x1004 w) s = { s with status := { s.status with
      done := s.status.done && !(w.toNat / 2 % 2 == 1)
      err := s.status.err && !(w.toNat / 4 % 2 == 1)
      ovr := s.status.ovr && !(w.toNat / 16 % 2 == 1)
      berr := s.status.berr && !(w.toNat / 32 % 2 == 1) } }

/-- 10_state.md R26: CTRL reads as IE alone; a write without SRST stores IE, one with SRST is a soft reset; both whatever BUSY
is. -/
def Obligations.CtrlReadsAndWrites : Prop :=
  ∀ (s : State) (w : Word),
    busStep (.read32 0x1008) s = { s with readData := .word (if s.ie then 1 else 0) } ∧
    (w.toNat / 2 % 2 = 0 → busStep (.write32 0x1008 w) s = { s with ie := w.toNat % 2 == 1 }) ∧
    (w.toNat / 2 % 2 = 1 → busStep (.write32 0x1008 w) s = softReset s)

/-- 10_state.md R27, R28, 20_memory.md R76: a write of an operand register stores the low 12 bits, of LEN the low 13, with
BUSY = 0; with BUSY = 1 it is dropped and sets OVR; a read gives the zero-extended value. -/
def Obligations.OperandRegistersReadAndWrite : Prop :=
  ∀ (s : State) (w : Word),
    (s.status.busy = false →
      busStep (.write32 0x100C w) s = { s with src := BitVec.ofNat 12 w.toNat } ∧
      busStep (.write32 0x1010 w) s = { s with dst := BitVec.ofNat 12 w.toNat } ∧
      busStep (.write32 0x1014 w) s = { s with key := BitVec.ofNat 12 w.toNat } ∧
      busStep (.write32 0x1018 w) s = { s with aux := BitVec.ofNat 12 w.toNat } ∧
      busStep (.write32 0x101C w) s = { s with len := BitVec.ofNat 13 w.toNat }) ∧
    (s.status.busy = true → ∀ a : BusAddr, a ∈ [0x100C, 0x1010, 0x1014, 0x1018, 0x101C] →
      busStep (.write32 a w) s = { s with status := { s.status with ovr := true } }) ∧
    busStep (.read32 0x100C) s = { s with readData := .word (BitVec.ofNat 32 s.src.toNat) } ∧
    busStep (.read32 0x1010) s = { s with readData := .word (BitVec.ofNat 32 s.dst.toNat) } ∧
    busStep (.read32 0x1014) s = { s with readData := .word (BitVec.ofNat 32 s.key.toNat) } ∧
    busStep (.read32 0x1018) s = { s with readData := .word (BitVec.ofNat 32 s.aux.toNat) } ∧
    busStep (.read32 0x101C) s = { s with readData := .word (BitVec.ofNat 32 s.len.toNat) }

/-- 10_state.md R29: HSSTAT reads as the verdict and ignores writes; the reserved registers 0x1024 to 0x103C read 0 and ignore
writes. 20_memory.md R60, R76: so do the reserved bus ranges 0x1040 to 0x10FF and 0x1180 to 0x1FFF, at either width (a 32-bit
access by its first address: log 9). None sets a flag, whatever BUSY is. -/
def Obligations.HsstatAndReservedRegisters : Prop :=
  ∀ (s : State) (w : Word),
    (∃ v : Word, busStep (.read32 0x1020) s = { s with readData := .word v } ∧
      v.toNat = (hsStateBits s.session.hsState).toNat + 16 * (failKindBits s.session.failKind).toNat +
        256 * (hsStateBits s.session.failAt).toNat) ∧
    busStep (.write32 0x1020 w) s = s ∧
    (∀ a : BusAddr, 0x1024 ≤ a.toNat → a.toNat < 0x1040 → a.toNat % 4 = 0 →
      busStep (.read32 a) s = { s with readData := .word 0 } ∧ busStep (.write32 a w) s = s) ∧
    (∀ (a : BusAddr) (v : Byte), (0x1040 ≤ a.toNat ∧ a.toNat < 0x1100) ∨ 0x1180 ≤ a.toNat →
      busStep (.read8 a) s = { s with readData := .byte 0 } ∧ busStep (.read32 a) s = { s with readData := .word 0 } ∧
      busStep (.write8 a v) s = s ∧ busStep (.write32 a w) s = s)

/-- 20_memory.md R61: a transaction of a refused width or alignment sets BERR, a read of it returns 0 of its width, and nothing
else changes, except that OVR is set too where BUSY = 1 and R76 names the access (that both rules apply at once is the model's
reading: log 8); no other transaction sets BERR. A transaction that straddles two ranges goes by its first address (log 9). -/
def Obligations.RefusedWidthSetsBerr : Prop :=
  ∀ (s : State) (op : BusOp),
    (WidthRefused op → busStep op s = { s with
      status := { s.status with berr := true, ovr := s.status.ovr || (s.status.busy && engineOwns op) }
      readData := refusedReadData s op }) ∧
    (¬ WidthRefused op → (busStep op s).status.berr = true → s.status.berr = true)

/-- 20_memory.md R62: byte i of the session window, with BUSY = 0; host writes to the window are ignored and set no flag,
whatever BUSY is. -/
def Obligations.SessionWindowReads : Prop :=
  ∀ (s : State) (a : BusAddr) (i : Nat) (v : Byte), a.toNat = 0x1100 + i → i < 128 →
    (s.status.busy = false → busStep (.read8 a) s = { s with readData := .byte ((windowBytes s.session).getD i 0) }) ∧
    busStep (.write8 a v) s = s

/-- 20_memory.md R65, R74: with BUSY = 0 a host write stores its byte and leaves other bytes, and everything but DMEM, as they were;
a read of a written byte, whoever wrote it, returns it and changes nothing of the hardware. A read of an unwritten byte returns a
free draw and changes no state of the hardware, for every value of the draw (log 3). -/
def Obligations.HostDmemAccess : Prop :=
  ∀ (s : State) (a : BusAddr) (v : Byte), a.toNat < 0x1000 → s.status.busy = false →
    (∃ m, busStep (.write8 a v) s = { s with dmem := m } ∧ StoredAt s.dmem a.toNat [v] m ∧
      busStep (.read8 a) { s with dmem := m } = { s with dmem := m, readData := .byte v }) ∧
    (∀ b, memGet? s.dmem a.toNat = some b → busStep (.read8 a) s = { s with readData := .byte b }) ∧
    (memGet? s.dmem a.toNat = none →
      busStep (.read8 a) s = { s with readData := .byte (Config.freeByte s.draws), draws := s.draws + 1 })

/-- 20_memory.md R76: with BUSY = 1 a DMEM write is dropped and a DMEM or window read returns 0x00; each sets OVR and changes
nothing else. -/
def Obligations.BusyRefusesHostAccess : Prop :=
  ∀ (s : State) (a : BusAddr) (v : Byte), s.status.busy = true →
    (a.toNat < 0x1000 → busStep (.write8 a v) s = { s with status := { s.status with ovr := true } }) ∧
    (a.toNat < 0x1000 ∨ (0x1100 ≤ a.toNat ∧ a.toNat < 0x1180) →
      busStep (.read8 a) s = { s with status := { s.status with ovr := true }, readData := .byte 0 })

/-- 20_memory.md R76: a command's result does not depend on a host transaction that comes before its step, unless that is a soft
reset: the same DMEM, session, operand registers and completion report, or the same fault. -/
def Obligations.ResultsAreIndependentOfInterleaving : Prop :=
  ∀ (s : State) (op : BusOp), statusInv s.status → s.status.busy = true → isSoftReset op = false →
    (∀ f, engineStep s = .fault f → engineStep (busStep op s) = .fault f) ∧
    (∀ t, engineStep s = .next t → ∃ u, engineStep (busStep op s) = .next u ∧ u.dmem = t.dmem ∧ u.session = t.session ∧
      u.src = t.src ∧ u.dst = t.dst ∧ u.key = t.key ∧ u.aux = t.aux ∧ u.len = t.len ∧
      u.status.busy = t.status.busy ∧ u.status.done = t.status.done ∧ u.status.err = t.status.err ∧
      u.status.result = t.status.result ∧ u.status.errcode = t.status.errcode)

/-! ## Interrupt and reset -/

/-- 60_exceptions.md R266: IRQ is the level IE ∧ DONE: completion, with or without error, sets DONE and asserts it when IE = 1,
setting IE while DONE = 1 asserts it, and clearing DONE, the next acceptance and a reset deassert it. -/
def Obligations.InterruptLevel : Prop :=
  (∀ s : State, irq s = true ↔ s.ie = true ∧ s.status.done = true) ∧
  (∀ s t : State, s.status.busy = true → engineStep s = .next t → t.status.done = true ∧ irq t = s.ie) ∧
  (∀ s : State, s.status.done = true → irq (busStep (.write32 0x1008 1) s) = true) ∧
  (∀ (s : State) (w : Word), w.toNat / 2 % 2 = 1 → irq (busStep (.write32 0x1004 w) s) = false) ∧
  (∀ (s : State) (w : Word), s.status.busy = false → irq (busStep (.write32 0x1000 w) s) = false) ∧
  (∀ s : State, irq (hardReset s) = false ∧ irq (softReset s) = false)

/-- 10_state.md R46: what the two resets leave; State.reset is what a hardware reset leaves. The schedule, the last read
data and the draw count are the model's own fields and stay (log 11). -/
def Obligations.ResetsSetEveryRegister : Prop :=
  ∀ s t : State, t = State.reset ∨ t = hardReset s ∨ t = softReset s →
    t.status = { busy := false, done := false, err := false, result := false, ovr := false, berr := false, errcode := .none } ∧
    t.ie = false ∧ t.src = 0 ∧ t.dst = 0 ∧ t.key = 0 ∧ t.aux = 0 ∧ t.len = 0 ∧ t.latch = 0 ∧
    t.session.nonce = zeros 16 ∧ t.session.cert = zeros 8 ∧ t.session.expacr = zeros 8 ∧ t.session.renc = zeros 16 ∧
    t.session.rsenc = zeros 16 ∧ t.session.usbr = zeros 16 ∧ t.session.chash = zeros 16 ∧ t.session.desc = zeros 32 ∧
    t.session.hsState = .init ∧ t.session.failKind = .noFailure ∧ t.session.failAt = .init ∧
    irq t = false ∧
    (∀ x, memGet? State.reset.dmem x = none) ∧ (∀ x, memGet? (hardReset s).dmem x = none) ∧
    (∀ x, memGet? (softReset s).dmem x = memGet? s.dmem x)

/-! ## Invariants -/

/-- The memory keeps its canonical form and its size over every step (10_state.md R45, 30_encoding.md R95: no write leaves
DMEM). The canonical form is the model's own. -/
def Obligations.StepKeepsMemoryCanonical : Prop :=
  ∀ s t : State, Memory.wf s.dmem → step s = .next t → Memory.wf t.dmem

/-- 10_state.md R29, R43, 43_handshake.md R234 items 2 and 3: FAIL_KIND is non-zero exactly in Failed, FAIL_AT is 0 outside
Failed, and in Failed the kind and the origin are a possible pair; every step keeps this. -/
def Obligations.StepKeepsVerdictConsistent : Prop :=
  ∀ s t : State, sessionInv s.session → step s = .next t → sessionInv t.session

/-- 10_state.md R24, 60_exceptions.md R261, R264: while a command is pending its report is clear, ERR comes with a code, and a
code comes without RESULT; every step keeps this. -/
def Obligations.StepKeepsFlagsConsistent : Prop :=
  ∀ s t : State, statusInv s.status → step s = .next t → statusInv t.status

/-- The three invariants hold after reset (10_state.md R46). -/
def Obligations.ResetMeetsInvariants : Prop :=
  Memory.wf State.reset.dmem ∧ sessionInv State.reset.session ∧ statusInv State.reset.status
end

