-- ==== Sys2Proof/Laws/Bytes.lean ====
section
/-! SUPPORT. The small lemmas of the byte-string operations: what each is as a list, and that `be64` and `tob8` are inverse. -/

namespace Sys2Proof.Machine

@[simp] theorem toList_zeros (n : Nat) : (zeros n).toList = List.replicate n 0 := by
  simp [zeros]

@[simp] theorem toList_cat {m n : Nat} (a : Bytes m) (b : Bytes n) : (cat a b).toList = a.toList ++ b.toList := by
  simp [cat]

@[simp] theorem toList_slice {n : Nat} (b : Bytes n) (i k : Nat) (h : i + k ≤ n) :
    (slice b i k h).toList = (b.toList.drop i).take k := by
  simp [slice]

@[simp] theorem toList_setSlice {n k : Nat} (b : Bytes n) (i : Nat) (v : Bytes k) (h : i + k ≤ n) :
    (setSlice b i v h).toList = b.toList.take i ++ v.toList ++ b.toList.drop (i + k) := by
  simp [setSlice]

@[simp] theorem toList_xorBytes {n : Nat} (a b : Bytes n) :
    (xorBytes a b).toList = List.zipWith (· ^^^ ·) a.toList b.toList := by
  simp [xorBytes]

@[simp] theorem toList_vcons {α : Type} {n : Nat} (x : α) (v : Vector α n) : (vcons x v).toList = x :: v.toList := by
  simp [vcons]

/-- Two vectors with the same list are equal. -/
theorem vector_eq_of_toList {α : Type} {n : Nat} {a b : Vector α n} (h : a.toList = b.toList) : a = b :=
  Vector.toList_inj.mp h

/-- Byte `i` of an exclusive-or. -/
@[simp] theorem getElem_xorBytes {n : Nat} (a b : Bytes n) (i : Nat) (h : i < n) :
    (xorBytes a b)[i] = a[i] ^^^ b[i] := by
  simp [xorBytes]

/-- Byte `i` of a slice. -/
@[simp] theorem getElem_slice {n : Nat} (b : Bytes n) (i k : Nat) (h : i + k ≤ n) (j : Nat) (hj : j < k) :
    (slice b i k h)[j] = b[i + j] := by
  simp [slice]

/-- Exclusive-or with a string undoes itself. -/
theorem xorBytes_cancel {n : Nat} (a b : Bytes n) : xorBytes (xorBytes a b) b = a := by
  apply Vector.ext
  intro i hi
  simp

/-- Exclusive-or with zeros changes nothing. -/
@[simp] theorem xorBytes_zeros {n : Nat} (a : Bytes n) : xorBytes a (zeros n) = a := by
  apply Vector.ext
  intro i hi
  simp [zeros]

/-- A block is its eight bytes. -/
theorem block_eta (b : Block) : b = #v[b[0], b[1], b[2], b[3], b[4], b[5], b[6], b[7]] := by
  apply Vector.ext
  intro i hi
  interval_cases i <;> rfl

/-- `be64` of eight bytes, written out. -/
theorem be64_bytes (a b c d e f g h : Byte) :
    be64 #v[a, b, c, d, e, f, g, h] =
      ((((((a.toNat * 256 + b.toNat) * 256 + c.toNat) * 256 + d.toNat) * 256 + e.toNat) * 256 + f.toNat) * 256 + g.toNat) * 256 +
        h.toNat := by
  simp [be64]

/-- `be64` is below 2^64. -/
theorem be64_lt (b : Block) : be64 b < 2 ^ 64 := by
  rw [block_eta b, be64_bytes]
  have := fun i (h : i < 8) => (b[i]'h).isLt
  have h0 := this 0 (by decide); have h1 := this 1 (by decide); have h2 := this 2 (by decide)
  have h3 := this 3 (by decide); have h4 := this 4 (by decide); have h5 := this 5 (by decide)
  have h6 := this 6 (by decide); have h7 := this 7 (by decide)
  omega

/-- `tob8` undoes `be64` (00_scope.md R14). -/
@[simp] theorem tob8_be64 (b : Block) : tob8 (be64 b) = b := by
  rw [block_eta b, be64_bytes]
  have := fun i (h : i < 8) => (b[i]'h).isLt
  have h0 := this 0 (by decide); have h1 := this 1 (by decide); have h2 := this 2 (by decide)
  have h3 := this 3 (by decide); have h4 := this 4 (by decide); have h5 := this 5 (by decide)
  have h6 := this 6 (by decide); have h7 := this 7 (by decide)
  apply Vector.ext
  intro i hi
  apply BitVec.eq_of_toNat_eq
  interval_cases i <;> simp [tob8] <;> omega

/-- `be64` undoes `tob8` below 2^64 (00_scope.md R14). -/
theorem be64_tob8 (v : Nat) (h : v < 2 ^ 64) : be64 (tob8 v) = v := by
  unfold tob8
  rw [be64_bytes]
  simp only [BitVec.toNat_ofNat]
  omega

end Sys2Proof.Machine
end

