-- ==== Sys2Proof/Laws/Memory.lean ====
section
/-! SUPPORT. DMEM: a read after a write, the canonical form, and what each read and write can do. -/

namespace Sys2Proof.Machine

/-! ## One byte -/

/-- A byte after a write: the written one is the value, every other is as before (20_memory.md R64, R74). -/
theorem memGet?_memSet (m : Memory) (a : Nat) (b : Byte) (x : Nat) :
    memGet? (memSet m a b) x = if x = a then some b else memGet? m x := by
  induction m with
  | nil => simp only [memSet, memGet?, eq_comm]
  | cons p m ih =>
    obtain ⟨y, v⟩ := p
    by_cases h1 : a < y
    · simp only [memSet, if_pos h1, memGet?, eq_comm (a := x)]
    · by_cases h2 : a = y
      · subst h2
        simp only [memSet, if_neg h1, if_pos, memGet?, eq_comm (a := x)]
        split_ifs <;> rfl
      · simp only [memSet, if_neg h1, if_neg h2, memGet?, ih]
        split_ifs <;> first | rfl | omega

/-- A write inside DMEM keeps every address inside DMEM. -/
theorem memSet_bound {m : Memory} {a : Nat} {b : Byte} {n : Nat} (ha : a < n) (h : ∀ p ∈ m, p.1 < n) :
    ∀ p ∈ memSet m a b, p.1 < n := by
  induction m with
  | nil => simpa [memSet] using ha
  | cons q m ih =>
    obtain ⟨y, v⟩ := q
    simp only [List.mem_cons, forall_eq_or_imp] at h
    simp only [memSet]
    split_ifs <;> simp only [List.mem_cons, forall_eq_or_imp]
    · exact ⟨ha, h⟩
    · exact ⟨ha, h.2⟩
    · exact ⟨h.1, ih h.2⟩

/-- A lower bound on the listed addresses survives a write above it. -/
theorem memSet_above {m : Memory} {a : Nat} {b : Byte} {n : Nat} (ha : n < a) (h : ∀ p ∈ m, n < p.1) :
    ∀ p ∈ memSet m a b, n < p.1 := by
  induction m with
  | nil => simpa [memSet] using ha
  | cons q m ih =>
    obtain ⟨y, v⟩ := q
    simp only [List.mem_cons, forall_eq_or_imp] at h
    simp only [memSet]
    split_ifs <;> simp only [List.mem_cons, forall_eq_or_imp]
    · exact ⟨ha, h⟩
    · exact ⟨ha, h.2⟩
    · exact ⟨h.1, ih h.2⟩

/-- A write keeps the addresses strictly rising. -/
theorem memSet_pairwise {m : Memory} {a : Nat} {b : Byte} (h : m.Pairwise (fun p q => p.1 < q.1)) :
    (memSet m a b).Pairwise (fun p q => p.1 < q.1) := by
  induction m with
  | nil => simp [memSet]
  | cons q m ih =>
    obtain ⟨y, v⟩ := q
    rw [List.pairwise_cons] at h
    simp only [memSet]
    split_ifs with h1 h2
    · refine List.pairwise_cons.mpr ⟨?_, List.pairwise_cons.mpr h⟩
      intro p hp
      rcases List.mem_cons.mp hp with rfl | hp
      · exact h1
      · exact Nat.lt_trans h1 (h.1 p hp)
    · subst h2
      exact List.pairwise_cons.mpr h
    · exact List.pairwise_cons.mpr ⟨memSet_above (by omega) h.1, ih h.2⟩

/-- A one-byte write inside DMEM keeps the canonical form. -/
theorem memSet_wf {m : Memory} {a : Nat} {b : Byte} (ha : a < dmemSize) (h : Memory.wf m) : Memory.wf (memSet m a b) :=
  ⟨memSet_pairwise h.1, memSet_bound ha h.2⟩

/-- What the engine's read of one byte can answer (20_memory.md R65). -/
theorem memReadByte_eq_ok {m : Memory} {a : Nat} {b : Byte} : memReadByte m a = .ok b ↔ memGet? m a = some b := by
  unfold memReadByte
  cases memGet? m a <;> simp

/-- When the engine's read of one byte aborts, and with what (20_memory.md R65). -/
theorem memReadByte_eq_error {m : Memory} {a : Nat} {e : Abort} :
    memReadByte m a = .error e ↔ memGet? m a = none ∧ e = .unwritten a := by
  unfold memReadByte
  cases memGet? m a <;> simp [eq_comm]

/-! ## Byte strings -/

/-- A byte after a write of a list: the listed bytes from `a` on, every other as before (20_memory.md R64). -/
theorem memGet?_memWriteList (bs : List Byte) : ∀ (m : Memory) (a x : Nat),
    memGet? (memWriteList m a bs) x = if h : a ≤ x ∧ x < a + bs.length then some (bs[x - a]'(by omega)) else memGet? m x := by
  induction bs with
  | nil => intro m a x; rw [dif_neg (by simp)]; rfl
  | cons b bs ih =>
    intro m a x
    simp only [memWriteList]
    rw [ih, memGet?_memSet]
    by_cases hx : x = a
    · subst hx
      rw [dif_neg (by omega), if_pos rfl, dif_pos (by simp)]
      simp
    · rw [if_neg hx]
      by_cases h : a ≤ x ∧ x < a + (b :: bs).length
      · rw [dif_pos h, dif_pos (by simp at h; omega)]
        have hk : x - a = (x - (a + 1)) + 1 := by omega
        simp only [hk, List.getElem_cons_succ]
      · rw [dif_neg h, dif_neg (by simp at h; omega)]

/-- A write of a list inside DMEM keeps the canonical form. -/
theorem memWriteList_wf (bs : List Byte) : ∀ {m : Memory} {a : Nat}, a + bs.length ≤ dmemSize → Memory.wf m →
    Memory.wf (memWriteList m a bs) := by
  induction bs with
  | nil => intro m a _ h; exact h
  | cons b bs ih =>
    intro m a ha h
    simp only [List.length_cons] at ha
    exact ih (by omega) (memSet_wf (by omega) h)

/-- A byte after `MemWrite` (20_memory.md R64). -/
theorem memGet?_memWrite {n : Nat} (m : Memory) (a : Nat) (v : Bytes n) (x : Nat) :
    memGet? (memWrite m a v) x = if h : a ≤ x ∧ x < a + n then some (v[x - a]'(by omega)) else memGet? m x := by
  unfold memWrite
  rw [memGet?_memWriteList]
  simp [Vector.getElem_toList]

/-- `MemWrite` inside DMEM keeps the canonical form. -/
theorem memWrite_wf {n : Nat} {m : Memory} {a : Nat} {v : Bytes n} (ha : a + n ≤ dmemSize) (h : Memory.wf m) :
    Memory.wf (memWrite m a v) := memWriteList_wf _ (by simpa using ha) h

/-- `MemRead` answers exactly the bytes that stand there (20_memory.md R63). -/
theorem memRead_eq_ok {m : Memory} : ∀ {n a : Nat} {v : Bytes n},
    memRead m a n = .ok v ↔ ∀ i (h : i < n), memGet? m (a + i) = some v[i] := by
  intro n
  induction n with
  | zero =>
    intro a v
    refine ⟨fun _ i h => absurd h (by omega), fun _ => ?_⟩
    simp only [memRead]
    congr 1
    apply Vector.ext
    intro i h
    omega
  | succ n ih =>
    intro a v
    simp only [memRead]
    constructor
    · intro h
      cases hb : memReadByte m a with
      | error e => simp [hb] at h
      | ok b =>
        cases hv : memRead m (a + 1) n with
        | error e => simp [hb, hv] at h
        | ok w =>
          simp only [hb, hv, Except.ok.injEq] at h
          subst h
          intro i hi
          cases i with
          | zero => simpa [vcons] using memReadByte_eq_ok.mp hb
          | succ i =>
            have := ih.mp hv i (by omega)
            simpa [vcons, Nat.add_assoc, Nat.add_comm 1 i] using this
    · intro h
      have hb : memReadByte m a = .ok v[0] := memReadByte_eq_ok.mpr (h 0 (by omega))
      have hv : memRead m (a + 1) n = .ok (Vector.ofFn fun i : Fin n => v[i.val + 1]) := by
        refine ih.mpr fun i hi => ?_
        have := h (i + 1) (by omega)
        simpa [Nat.add_assoc, Nat.add_comm 1 i] using this
      simp only [hb, hv]
      congr 1
      apply Vector.ext
      intro i hi
      cases i with
      | zero => simp [vcons]
      | succ i => simp [vcons]

/-- When `MemRead` aborts: it names an unwritten byte of its region (20_memory.md R65). -/
theorem memRead_eq_error {m : Memory} : ∀ {n a : Nat} {e : Abort}, memRead m a n = .error e →
    ∃ i, i < n ∧ memGet? m (a + i) = none ∧ e = .unwritten (a + i) := by
  intro n
  induction n with
  | zero => intro a e h; simp [memRead] at h
  | succ n ih =>
    intro a e h
    simp only [memRead] at h
    cases hb : memReadByte m a with
    | error e' =>
      simp only [hb, Except.error.injEq] at h
      obtain ⟨h1, h2⟩ := memReadByte_eq_error.mp hb
      exact ⟨0, by omega, h1, by rw [← h, h2]; rfl⟩
    | ok b =>
      cases hv : memRead m (a + 1) n with
      | error e' =>
        simp only [hb, hv, Except.error.injEq] at h
        obtain ⟨i, hi, h1, h2⟩ := ih hv
        exact ⟨i + 1, by omega, by simpa [Nat.add_assoc, Nat.add_comm 1 i] using h1,
          by rw [← h, h2]; simp [Nat.add_assoc, Nat.add_comm 1 i]⟩
      | ok w => simp [hb, hv] at h

/-- `MemRead` of written bytes succeeds (20_memory.md R65). -/
theorem memRead_of_written {m : Memory} {a n : Nat} (h : ∀ i, i < n → (memGet? m (a + i)).isSome) :
    ∃ v, memRead m a n = .ok v := by
  cases hv : memRead m a n with
  | ok v => exact ⟨v, rfl⟩
  | error e =>
    obtain ⟨i, hi, h1, -⟩ := memRead_eq_error hv
    have := h i hi
    simp [h1] at this

/-- `MemRead` right after `MemWrite` gives the bytes written (20_memory.md R63, R64). -/
theorem memRead_memWrite {n : Nat} (m : Memory) (a : Nat) (v : Bytes n) : memRead (memWrite m a v) a n = .ok v := by
  refine memRead_eq_ok.mpr fun i hi => ?_
  rw [memGet?_memWrite, dif_pos (by omega)]
  simp

/-- `MemRead` outside the bytes a `MemWrite` stored is as before (20_memory.md R64). -/
theorem memRead_memWrite_other {n k : Nat} (m : Memory) (a b : Nat) (v : Bytes n) (h : b + k ≤ a ∨ a + n ≤ b) :
    memRead (memWrite m a v) b k = memRead m b k := by
  induction k generalizing b with
  | zero => rfl
  | succ k ih =>
    have hb : memReadByte (memWrite m a v) b = memReadByte m b := by
      unfold memReadByte
      rw [memGet?_memWrite, dif_neg (by omega)]
    simp only [memRead, hb]
    rw [ih (b + 1) (by omega)]

/-! ## Strings of blocks -/

/-- The bytes of n blocks are 8n bytes. -/
@[simp] theorem blockBytes_length (bs : List Block) : (blockBytes bs).length = 8 * bs.length := by
  induction bs with
  | nil => rfl
  | cons b bs ih =>
    simp only [blockBytes, List.flatMap_cons, List.length_append, List.length_cons] at ih ⊢
    rw [ih]
    simp
    omega

/-- Byte `j` of block `i` among the bytes of the blocks. -/
theorem blockBytes_getElem (bs : List Block) : ∀ (i j : Nat) (hi : i < bs.length) (hj : j < 8),
    (blockBytes bs)[8 * i + j]'(by simp; omega) = (bs[i])[j] := by
  induction bs with
  | nil => intro i j hi; simp at hi
  | cons b bs ih =>
    intro i j hi hj
    simp only [blockBytes, List.flatMap_cons]
    cases i with
    | zero =>
      rw [List.getElem_append_left (by simpa using hj)]
      simp
    | succ i =>
      rw [List.getElem_append_right (by simp; omega)]
      have := ih i j (by simpa using hi) hj
      simp only [blockBytes, Vector.length_toList] at this ⊢
      have hk : 8 * (i + 1) + j - 8 = 8 * i + j := by omega
      simp only [hk, this, List.getElem_cons_succ]

/-- `MemRead` of n blocks answers exactly the blocks that stand there (20_memory.md R63). -/
theorem memReadBlocks_eq_ok {m : Memory} : ∀ {n a : Nat} {v : Vector Block n},
    memReadBlocks m a n = .ok v ↔ ∀ i (h : i < n), memRead m (a + 8 * i) 8 = .ok v[i] := by
  intro n
  induction n with
  | zero =>
    intro a v
    refine ⟨fun _ i h => absurd h (by omega), fun _ => ?_⟩
    simp only [memReadBlocks]
    congr 1
    apply Vector.ext
    intro i h
    omega
  | succ n ih =>
    intro a v
    simp only [memReadBlocks]
    constructor
    · intro h
      cases hb : memRead m a 8 with
      | error e => simp [hb] at h
      | ok b =>
        cases hv : memReadBlocks m (a + 8) n with
        | error e => simp [hb, hv] at h
        | ok w =>
          simp only [hb, hv, Except.ok.injEq] at h
          subst h
          intro i hi
          cases i with
          | zero => simpa [vcons] using hb
          | succ i =>
            have := ih.mp hv i (by omega)
            have ha : a + 8 * (i + 1) = a + 8 + 8 * i := by omega
            simpa [vcons, ha] using this
    · intro h
      have hb : memRead m a 8 = .ok v[0] := h 0 (by omega)
      have hv : memReadBlocks m (a + 8) n = .ok (Vector.ofFn fun i : Fin n => v[i.val + 1]) := by
        refine ih.mpr fun i hi => ?_
        have := h (i + 1) (by omega)
        have ha : a + 8 * (i + 1) = a + 8 + 8 * i := by omega
        simpa [ha] using this
      simp only [hb, hv]
      congr 1
      apply Vector.ext
      intro i hi
      cases i with
      | zero => simp [vcons]
      | succ i => simp [vcons]

/-- When a read of n blocks aborts: it names an unwritten byte of its region (20_memory.md R65). -/
theorem memReadBlocks_eq_error {m : Memory} : ∀ {n a : Nat} {e : Abort}, memReadBlocks m a n = .error e →
    ∃ i, i < 8 * n ∧ memGet? m (a + i) = none ∧ e = .unwritten (a + i) := by
  intro n
  induction n with
  | zero => intro a e h; simp [memReadBlocks] at h
  | succ n ih =>
    intro a e h
    simp only [memReadBlocks] at h
    cases hb : memRead m a 8 with
    | error e' =>
      simp only [hb, Except.error.injEq] at h
      obtain ⟨i, hi, h1, h2⟩ := memRead_eq_error hb
      exact ⟨i, by omega, h1, by rw [← h, h2]⟩
    | ok b =>
      cases hv : memReadBlocks m (a + 8) n with
      | error e' =>
        simp only [hb, hv, Except.error.injEq] at h
        obtain ⟨i, hi, h1, h2⟩ := ih hv
        exact ⟨8 + i, by omega, by simpa [Nat.add_assoc] using h1, by rw [← h, h2, Nat.add_assoc]⟩
      | ok w => simp [hb, hv] at h

/-- A read of n written blocks succeeds (20_memory.md R65). -/
theorem memReadBlocks_of_written {m : Memory} {a n : Nat} (h : ∀ i, i < 8 * n → (memGet? m (a + i)).isSome) :
    ∃ v, memReadBlocks m a n = .ok v := by
  cases hv : memReadBlocks m a n with
  | ok v => exact ⟨v, rfl⟩
  | error e =>
    obtain ⟨i, hi, h1, -⟩ := memReadBlocks_eq_error hv
    have := h i hi
    simp [h1] at this

/-- A byte after a write of n blocks (20_memory.md R64). -/
theorem memGet?_memWriteBlocks {n : Nat} (m : Memory) (a : Nat) (v : Vector Block n) (x : Nat) :
    memGet? (memWriteBlocks m a v) x =
      if h : a ≤ x ∧ x < a + 8 * n then some ((blockBytes v.toList)[x - a]'(by simp; omega)) else memGet? m x := by
  unfold memWriteBlocks
  rw [memGet?_memWriteList]
  simp

/-- A write of n blocks inside DMEM keeps the canonical form. -/
theorem memWriteBlocks_wf {n : Nat} {m : Memory} {a : Nat} {v : Vector Block n} (ha : a + 8 * n ≤ dmemSize)
    (h : Memory.wf m) : Memory.wf (memWriteBlocks m a v) := memWriteList_wf _ (by simpa using ha) h

/-- A read of n blocks right after their write gives the blocks written (20_memory.md R63, R64). -/
theorem memReadBlocks_memWriteBlocks {n : Nat} (m : Memory) (a : Nat) (v : Vector Block n) :
    memReadBlocks (memWriteBlocks m a v) a n = .ok v := by
  refine memReadBlocks_eq_ok.mpr fun i hi => memRead_eq_ok.mpr fun j hj => ?_
  rw [memGet?_memWriteBlocks, dif_pos (by omega)]
  have hk : a + 8 * i + j - a = 8 * i + j := by omega
  simp only [hk]
  rw [blockBytes_getElem _ i j (by simpa using hi) hj]
  simp

end Sys2Proof.Machine
end

