-- ==== Sys2Proof/Laws/State.lean ====
section
/-! SUPPORT. One lemma per field per update, true by unfolding, so that no proof unfolds a record update. -/

namespace Sys2Proof.Machine

/-! ## withStatus -/

@[simp] theorem withStatus_status (t : Status) (s : State) : (withStatus t s).status = t := rfl
@[simp] theorem withStatus_ie (t : Status) (s : State) : (withStatus t s).ie = s.ie := rfl
@[simp] theorem withStatus_src (t : Status) (s : State) : (withStatus t s).src = s.src := rfl
@[simp] theorem withStatus_dst (t : Status) (s : State) : (withStatus t s).dst = s.dst := rfl
@[simp] theorem withStatus_key (t : Status) (s : State) : (withStatus t s).key = s.key := rfl
@[simp] theorem withStatus_aux (t : Status) (s : State) : (withStatus t s).aux = s.aux := rfl
@[simp] theorem withStatus_len (t : Status) (s : State) : (withStatus t s).len = s.len := rfl
@[simp] theorem withStatus_latch (t : Status) (s : State) : (withStatus t s).latch = s.latch := rfl
@[simp] theorem withStatus_session (t : Status) (s : State) : (withStatus t s).session = s.session := rfl
@[simp] theorem withStatus_dmem (t : Status) (s : State) : (withStatus t s).dmem = s.dmem := rfl
@[simp] theorem withStatus_schedule (t : Status) (s : State) : (withStatus t s).schedule = s.schedule := rfl
@[simp] theorem withStatus_readData (t : Status) (s : State) : (withStatus t s).readData = s.readData := rfl
@[simp] theorem withStatus_draws (t : Status) (s : State) : (withStatus t s).draws = s.draws := rfl

/-! ## withDmem -/

@[simp] theorem withDmem_status (m : Memory) (s : State) : (withDmem m s).status = s.status := rfl
@[simp] theorem withDmem_ie (m : Memory) (s : State) : (withDmem m s).ie = s.ie := rfl
@[simp] theorem withDmem_src (m : Memory) (s : State) : (withDmem m s).src = s.src := rfl
@[simp] theorem withDmem_dst (m : Memory) (s : State) : (withDmem m s).dst = s.dst := rfl
@[simp] theorem withDmem_key (m : Memory) (s : State) : (withDmem m s).key = s.key := rfl
@[simp] theorem withDmem_aux (m : Memory) (s : State) : (withDmem m s).aux = s.aux := rfl
@[simp] theorem withDmem_len (m : Memory) (s : State) : (withDmem m s).len = s.len := rfl
@[simp] theorem withDmem_latch (m : Memory) (s : State) : (withDmem m s).latch = s.latch := rfl
@[simp] theorem withDmem_session (m : Memory) (s : State) : (withDmem m s).session = s.session := rfl
@[simp] theorem withDmem_dmem (m : Memory) (s : State) : (withDmem m s).dmem = m := rfl
@[simp] theorem withDmem_schedule (m : Memory) (s : State) : (withDmem m s).schedule = s.schedule := rfl
@[simp] theorem withDmem_readData (m : Memory) (s : State) : (withDmem m s).readData = s.readData := rfl
@[simp] theorem withDmem_draws (m : Memory) (s : State) : (withDmem m s).draws = s.draws := rfl

/-! ## withSession -/

@[simp] theorem withSession_status (S : Session) (s : State) : (withSession S s).status = s.status := rfl
@[simp] theorem withSession_ie (S : Session) (s : State) : (withSession S s).ie = s.ie := rfl
@[simp] theorem withSession_src (S : Session) (s : State) : (withSession S s).src = s.src := rfl
@[simp] theorem withSession_dst (S : Session) (s : State) : (withSession S s).dst = s.dst := rfl
@[simp] theorem withSession_key (S : Session) (s : State) : (withSession S s).key = s.key := rfl
@[simp] theorem withSession_aux (S : Session) (s : State) : (withSession S s).aux = s.aux := rfl
@[simp] theorem withSession_len (S : Session) (s : State) : (withSession S s).len = s.len := rfl
@[simp] theorem withSession_latch (S : Session) (s : State) : (withSession S s).latch = s.latch := rfl
@[simp] theorem withSession_session (S : Session) (s : State) : (withSession S s).session = S := rfl
@[simp] theorem withSession_dmem (S : Session) (s : State) : (withSession S s).dmem = s.dmem := rfl
@[simp] theorem withSession_schedule (S : Session) (s : State) : (withSession S s).schedule = s.schedule := rfl
@[simp] theorem withSession_readData (S : Session) (s : State) : (withSession S s).readData = s.readData := rfl
@[simp] theorem withSession_draws (S : Session) (s : State) : (withSession S s).draws = s.draws := rfl

/-! ## withResult -/

@[simp] theorem withResult_status (r : Bool) (s : State) : (withResult r s).status = resultFlag r s.status := rfl
@[simp] theorem withResult_ie (r : Bool) (s : State) : (withResult r s).ie = s.ie := rfl
@[simp] theorem withResult_src (r : Bool) (s : State) : (withResult r s).src = s.src := rfl
@[simp] theorem withResult_dst (r : Bool) (s : State) : (withResult r s).dst = s.dst := rfl
@[simp] theorem withResult_key (r : Bool) (s : State) : (withResult r s).key = s.key := rfl
@[simp] theorem withResult_aux (r : Bool) (s : State) : (withResult r s).aux = s.aux := rfl
@[simp] theorem withResult_len (r : Bool) (s : State) : (withResult r s).len = s.len := rfl
@[simp] theorem withResult_latch (r : Bool) (s : State) : (withResult r s).latch = s.latch := rfl
@[simp] theorem withResult_session (r : Bool) (s : State) : (withResult r s).session = s.session := rfl
@[simp] theorem withResult_dmem (r : Bool) (s : State) : (withResult r s).dmem = s.dmem := rfl
@[simp] theorem withResult_schedule (r : Bool) (s : State) : (withResult r s).schedule = s.schedule := rfl
@[simp] theorem withResult_readData (r : Bool) (s : State) : (withResult r s).readData = s.readData := rfl
@[simp] theorem withResult_draws (r : Bool) (s : State) : (withResult r s).draws = s.draws := rfl

/-! ## withSchedule -/

@[simp] theorem withSchedule_status (es : List Event) (s : State) : (withSchedule es s).status = s.status := rfl
@[simp] theorem withSchedule_ie (es : List Event) (s : State) : (withSchedule es s).ie = s.ie := rfl
@[simp] theorem withSchedule_src (es : List Event) (s : State) : (withSchedule es s).src = s.src := rfl
@[simp] theorem withSchedule_dst (es : List Event) (s : State) : (withSchedule es s).dst = s.dst := rfl
@[simp] theorem withSchedule_key (es : List Event) (s : State) : (withSchedule es s).key = s.key := rfl
@[simp] theorem withSchedule_aux (es : List Event) (s : State) : (withSchedule es s).aux = s.aux := rfl
@[simp] theorem withSchedule_len (es : List Event) (s : State) : (withSchedule es s).len = s.len := rfl
@[simp] theorem withSchedule_latch (es : List Event) (s : State) : (withSchedule es s).latch = s.latch := rfl
@[simp] theorem withSchedule_session (es : List Event) (s : State) : (withSchedule es s).session = s.session := rfl
@[simp] theorem withSchedule_dmem (es : List Event) (s : State) : (withSchedule es s).dmem = s.dmem := rfl
@[simp] theorem withSchedule_schedule (es : List Event) (s : State) : (withSchedule es s).schedule = es := rfl
@[simp] theorem withSchedule_readData (es : List Event) (s : State) : (withSchedule es s).readData = s.readData := rfl
@[simp] theorem withSchedule_draws (es : List Event) (s : State) : (withSchedule es s).draws = s.draws := rfl

/-! ## withReadData -/

@[simp] theorem withReadData_status (d : ReadData) (s : State) : (withReadData d s).status = s.status := rfl
@[simp] theorem withReadData_ie (d : ReadData) (s : State) : (withReadData d s).ie = s.ie := rfl
@[simp] theorem withReadData_src (d : ReadData) (s : State) : (withReadData d s).src = s.src := rfl
@[simp] theorem withReadData_dst (d : ReadData) (s : State) : (withReadData d s).dst = s.dst := rfl
@[simp] theorem withReadData_key (d : ReadData) (s : State) : (withReadData d s).key = s.key := rfl
@[simp] theorem withReadData_aux (d : ReadData) (s : State) : (withReadData d s).aux = s.aux := rfl
@[simp] theorem withReadData_len (d : ReadData) (s : State) : (withReadData d s).len = s.len := rfl
@[simp] theorem withReadData_latch (d : ReadData) (s : State) : (withReadData d s).latch = s.latch := rfl
@[simp] theorem withReadData_session (d : ReadData) (s : State) : (withReadData d s).session = s.session := rfl
@[simp] theorem withReadData_dmem (d : ReadData) (s : State) : (withReadData d s).dmem = s.dmem := rfl
@[simp] theorem withReadData_schedule (d : ReadData) (s : State) : (withReadData d s).schedule = s.schedule := rfl
@[simp] theorem withReadData_readData (d : ReadData) (s : State) : (withReadData d s).readData = d := rfl
@[simp] theorem withReadData_draws (d : ReadData) (s : State) : (withReadData d s).draws = s.draws := rfl

/-! ## countDraw -/

@[simp] theorem countDraw_status (s : State) : (countDraw s).status = s.status := rfl
@[simp] theorem countDraw_ie (s : State) : (countDraw s).ie = s.ie := rfl
@[simp] theorem countDraw_src (s : State) : (countDraw s).src = s.src := rfl
@[simp] theorem countDraw_dst (s : State) : (countDraw s).dst = s.dst := rfl
@[simp] theorem countDraw_key (s : State) : (countDraw s).key = s.key := rfl
@[simp] theorem countDraw_aux (s : State) : (countDraw s).aux = s.aux := rfl
@[simp] theorem countDraw_len (s : State) : (countDraw s).len = s.len := rfl
@[simp] theorem countDraw_latch (s : State) : (countDraw s).latch = s.latch := rfl
@[simp] theorem countDraw_session (s : State) : (countDraw s).session = s.session := rfl
@[simp] theorem countDraw_dmem (s : State) : (countDraw s).dmem = s.dmem := rfl
@[simp] theorem countDraw_schedule (s : State) : (countDraw s).schedule = s.schedule := rfl
@[simp] theorem countDraw_readData (s : State) : (countDraw s).readData = s.readData := rfl
@[simp] theorem countDraw_draws (s : State) : (countDraw s).draws = s.draws + 1 := rfl

/-! ## setOvr -/

@[simp] theorem setOvr_status (s : State) : (setOvr s).status = ovrFlag s.status := rfl
@[simp] theorem setOvr_ie (s : State) : (setOvr s).ie = s.ie := rfl
@[simp] theorem setOvr_src (s : State) : (setOvr s).src = s.src := rfl
@[simp] theorem setOvr_dst (s : State) : (setOvr s).dst = s.dst := rfl
@[simp] theorem setOvr_key (s : State) : (setOvr s).key = s.key := rfl
@[simp] theorem setOvr_aux (s : State) : (setOvr s).aux = s.aux := rfl
@[simp] theorem setOvr_len (s : State) : (setOvr s).len = s.len := rfl
@[simp] theorem setOvr_latch (s : State) : (setOvr s).latch = s.latch := rfl
@[simp] theorem setOvr_session (s : State) : (setOvr s).session = s.session := rfl
@[simp] theorem setOvr_dmem (s : State) : (setOvr s).dmem = s.dmem := rfl
@[simp] theorem setOvr_schedule (s : State) : (setOvr s).schedule = s.schedule := rfl
@[simp] theorem setOvr_readData (s : State) : (setOvr s).readData = s.readData := rfl
@[simp] theorem setOvr_draws (s : State) : (setOvr s).draws = s.draws := rfl

/-! ## setBerr -/

@[simp] theorem setBerr_status (s : State) : (setBerr s).status = berrFlag s.status := rfl
@[simp] theorem setBerr_ie (s : State) : (setBerr s).ie = s.ie := rfl
@[simp] theorem setBerr_src (s : State) : (setBerr s).src = s.src := rfl
@[simp] theorem setBerr_dst (s : State) : (setBerr s).dst = s.dst := rfl
@[simp] theorem setBerr_key (s : State) : (setBerr s).key = s.key := rfl
@[simp] theorem setBerr_aux (s : State) : (setBerr s).aux = s.aux := rfl
@[simp] theorem setBerr_len (s : State) : (setBerr s).len = s.len := rfl
@[simp] theorem setBerr_latch (s : State) : (setBerr s).latch = s.latch := rfl
@[simp] theorem setBerr_session (s : State) : (setBerr s).session = s.session := rfl
@[simp] theorem setBerr_dmem (s : State) : (setBerr s).dmem = s.dmem := rfl
@[simp] theorem setBerr_schedule (s : State) : (setBerr s).schedule = s.schedule := rfl
@[simp] theorem setBerr_readData (s : State) : (setBerr s).readData = s.readData := rfl
@[simp] theorem setBerr_draws (s : State) : (setBerr s).draws = s.draws := rfl

/-! ## acceptCommand -/

@[simp] theorem acceptCommand_status (w : Word) (s : State) : (acceptCommand w s).status = acceptFlags s.status := rfl
@[simp] theorem acceptCommand_ie (w : Word) (s : State) : (acceptCommand w s).ie = s.ie := rfl
@[simp] theorem acceptCommand_src (w : Word) (s : State) : (acceptCommand w s).src = s.src := rfl
@[simp] theorem acceptCommand_dst (w : Word) (s : State) : (acceptCommand w s).dst = s.dst := rfl
@[simp] theorem acceptCommand_key (w : Word) (s : State) : (acceptCommand w s).key = s.key := rfl
@[simp] theorem acceptCommand_aux (w : Word) (s : State) : (acceptCommand w s).aux = s.aux := rfl
@[simp] theorem acceptCommand_len (w : Word) (s : State) : (acceptCommand w s).len = s.len := rfl
@[simp] theorem acceptCommand_latch (w : Word) (s : State) : (acceptCommand w s).latch = w := rfl
@[simp] theorem acceptCommand_session (w : Word) (s : State) : (acceptCommand w s).session = s.session := rfl
@[simp] theorem acceptCommand_dmem (w : Word) (s : State) : (acceptCommand w s).dmem = s.dmem := rfl
@[simp] theorem acceptCommand_schedule (w : Word) (s : State) : (acceptCommand w s).schedule = s.schedule := rfl
@[simp] theorem acceptCommand_readData (w : Word) (s : State) : (acceptCommand w s).readData = s.readData := rfl
@[simp] theorem acceptCommand_draws (w : Word) (s : State) : (acceptCommand w s).draws = s.draws := rfl

/-! ## complete -/

@[simp] theorem complete_status (s : State) : (complete s).status = completeFlags s.status := rfl
@[simp] theorem complete_ie (s : State) : (complete s).ie = s.ie := rfl
@[simp] theorem complete_src (s : State) : (complete s).src = s.src := rfl
@[simp] theorem complete_dst (s : State) : (complete s).dst = s.dst := rfl
@[simp] theorem complete_key (s : State) : (complete s).key = s.key := rfl
@[simp] theorem complete_aux (s : State) : (complete s).aux = s.aux := rfl
@[simp] theorem complete_len (s : State) : (complete s).len = s.len := rfl
@[simp] theorem complete_latch (s : State) : (complete s).latch = s.latch := rfl
@[simp] theorem complete_session (s : State) : (complete s).session = s.session := rfl
@[simp] theorem complete_dmem (s : State) : (complete s).dmem = s.dmem := rfl
@[simp] theorem complete_schedule (s : State) : (complete s).schedule = s.schedule := rfl
@[simp] theorem complete_readData (s : State) : (complete s).readData = s.readData := rfl
@[simp] theorem complete_draws (s : State) : (complete s).draws = s.draws := rfl

/-! ## takeError -/

@[simp] theorem takeError_status (e : ErrCode) (s : State) : (takeError e s).status = errorFlags e s.status := rfl
@[simp] theorem takeError_ie (e : ErrCode) (s : State) : (takeError e s).ie = s.ie := rfl
@[simp] theorem takeError_src (e : ErrCode) (s : State) : (takeError e s).src = s.src := rfl
@[simp] theorem takeError_dst (e : ErrCode) (s : State) : (takeError e s).dst = s.dst := rfl
@[simp] theorem takeError_key (e : ErrCode) (s : State) : (takeError e s).key = s.key := rfl
@[simp] theorem takeError_aux (e : ErrCode) (s : State) : (takeError e s).aux = s.aux := rfl
@[simp] theorem takeError_len (e : ErrCode) (s : State) : (takeError e s).len = s.len := rfl
@[simp] theorem takeError_latch (e : ErrCode) (s : State) : (takeError e s).latch = s.latch := rfl
@[simp] theorem takeError_session (e : ErrCode) (s : State) : (takeError e s).session = s.session := rfl
@[simp] theorem takeError_dmem (e : ErrCode) (s : State) : (takeError e s).dmem = s.dmem := rfl
@[simp] theorem takeError_schedule (e : ErrCode) (s : State) : (takeError e s).schedule = s.schedule := rfl
@[simp] theorem takeError_readData (e : ErrCode) (s : State) : (takeError e s).readData = s.readData := rfl
@[simp] theorem takeError_draws (e : ErrCode) (s : State) : (takeError e s).draws = s.draws := rfl

/-! ## clearReport -/

@[simp] theorem clearReport_status (w : Word) (s : State) : (clearReport w s).status = clearFlags w s.status := rfl
@[simp] theorem clearReport_ie (w : Word) (s : State) : (clearReport w s).ie = s.ie := rfl
@[simp] theorem clearReport_src (w : Word) (s : State) : (clearReport w s).src = s.src := rfl
@[simp] theorem clearReport_dst (w : Word) (s : State) : (clearReport w s).dst = s.dst := rfl
@[simp] theorem clearReport_key (w : Word) (s : State) : (clearReport w s).key = s.key := rfl
@[simp] theorem clearReport_aux (w : Word) (s : State) : (clearReport w s).aux = s.aux := rfl
@[simp] theorem clearReport_len (w : Word) (s : State) : (clearReport w s).len = s.len := rfl
@[simp] theorem clearReport_latch (w : Word) (s : State) : (clearReport w s).latch = s.latch := rfl
@[simp] theorem clearReport_session (w : Word) (s : State) : (clearReport w s).session = s.session := rfl
@[simp] theorem clearReport_dmem (w : Word) (s : State) : (clearReport w s).dmem = s.dmem := rfl
@[simp] theorem clearReport_schedule (w : Word) (s : State) : (clearReport w s).schedule = s.schedule := rfl
@[simp] theorem clearReport_readData (w : Word) (s : State) : (clearReport w s).readData = s.readData := rfl
@[simp] theorem clearReport_draws (w : Word) (s : State) : (clearReport w s).draws = s.draws := rfl

/-! ## softReset -/

@[simp] theorem softReset_status (s : State) : (softReset s).status = Status.reset := rfl
@[simp] theorem softReset_ie (s : State) : (softReset s).ie = false := rfl
@[simp] theorem softReset_src (s : State) : (softReset s).src = 0 := rfl
@[simp] theorem softReset_dst (s : State) : (softReset s).dst = 0 := rfl
@[simp] theorem softReset_key (s : State) : (softReset s).key = 0 := rfl
@[simp] theorem softReset_aux (s : State) : (softReset s).aux = 0 := rfl
@[simp] theorem softReset_len (s : State) : (softReset s).len = 0 := rfl
@[simp] theorem softReset_latch (s : State) : (softReset s).latch = 0 := rfl
@[simp] theorem softReset_session (s : State) : (softReset s).session = Session.reset := rfl
@[simp] theorem softReset_dmem (s : State) : (softReset s).dmem = s.dmem := rfl
@[simp] theorem softReset_schedule (s : State) : (softReset s).schedule = s.schedule := rfl
@[simp] theorem softReset_readData (s : State) : (softReset s).readData = s.readData := rfl
@[simp] theorem softReset_draws (s : State) : (softReset s).draws = s.draws := rfl

/-! ## hardReset -/

@[simp] theorem hardReset_status (s : State) : (hardReset s).status = Status.reset := rfl
@[simp] theorem hardReset_ie (s : State) : (hardReset s).ie = false := rfl
@[simp] theorem hardReset_src (s : State) : (hardReset s).src = 0 := rfl
@[simp] theorem hardReset_dst (s : State) : (hardReset s).dst = 0 := rfl
@[simp] theorem hardReset_key (s : State) : (hardReset s).key = 0 := rfl
@[simp] theorem hardReset_aux (s : State) : (hardReset s).aux = 0 := rfl
@[simp] theorem hardReset_len (s : State) : (hardReset s).len = 0 := rfl
@[simp] theorem hardReset_latch (s : State) : (hardReset s).latch = 0 := rfl
@[simp] theorem hardReset_session (s : State) : (hardReset s).session = Session.reset := rfl
@[simp] theorem hardReset_dmem (s : State) : (hardReset s).dmem = [] := rfl
@[simp] theorem hardReset_schedule (s : State) : (hardReset s).schedule = s.schedule := rfl
@[simp] theorem hardReset_readData (s : State) : (hardReset s).readData = s.readData := rfl
@[simp] theorem hardReset_draws (s : State) : (hardReset s).draws = s.draws := rfl

/-! ## Flags -/

@[simp] theorem acceptFlags_busy (t : Status) : (acceptFlags t).busy = true := rfl
@[simp] theorem acceptFlags_done (t : Status) : (acceptFlags t).done = false := rfl
@[simp] theorem acceptFlags_err (t : Status) : (acceptFlags t).err = false := rfl
@[simp] theorem acceptFlags_result (t : Status) : (acceptFlags t).result = false := rfl
@[simp] theorem acceptFlags_ovr (t : Status) : (acceptFlags t).ovr = t.ovr := rfl
@[simp] theorem acceptFlags_berr (t : Status) : (acceptFlags t).berr = t.berr := rfl
@[simp] theorem acceptFlags_errcode (t : Status) : (acceptFlags t).errcode = .none := rfl

@[simp] theorem completeFlags_busy (t : Status) : (completeFlags t).busy = false := rfl
@[simp] theorem completeFlags_done (t : Status) : (completeFlags t).done = true := rfl
@[simp] theorem completeFlags_err (t : Status) : (completeFlags t).err = t.err := rfl
@[simp] theorem completeFlags_result (t : Status) : (completeFlags t).result = t.result := rfl
@[simp] theorem completeFlags_ovr (t : Status) : (completeFlags t).ovr = t.ovr := rfl
@[simp] theorem completeFlags_berr (t : Status) : (completeFlags t).berr = t.berr := rfl
@[simp] theorem completeFlags_errcode (t : Status) : (completeFlags t).errcode = t.errcode := rfl

@[simp] theorem errorFlags_busy (e : ErrCode) (t : Status) : (errorFlags e t).busy = false := rfl
@[simp] theorem errorFlags_done (e : ErrCode) (t : Status) : (errorFlags e t).done = true := rfl
@[simp] theorem errorFlags_err (e : ErrCode) (t : Status) : (errorFlags e t).err = true := rfl
@[simp] theorem errorFlags_result (e : ErrCode) (t : Status) : (errorFlags e t).result = t.result := rfl
@[simp] theorem errorFlags_ovr (e : ErrCode) (t : Status) : (errorFlags e t).ovr = t.ovr := rfl
@[simp] theorem errorFlags_berr (e : ErrCode) (t : Status) : (errorFlags e t).berr = t.berr := rfl
@[simp] theorem errorFlags_errcode (e : ErrCode) (t : Status) : (errorFlags e t).errcode = e := rfl

@[simp] theorem resultFlag_busy (r : Bool) (t : Status) : (resultFlag r t).busy = t.busy := rfl
@[simp] theorem resultFlag_done (r : Bool) (t : Status) : (resultFlag r t).done = t.done := rfl
@[simp] theorem resultFlag_err (r : Bool) (t : Status) : (resultFlag r t).err = t.err := rfl
@[simp] theorem resultFlag_result (r : Bool) (t : Status) : (resultFlag r t).result = r := rfl
@[simp] theorem resultFlag_ovr (r : Bool) (t : Status) : (resultFlag r t).ovr = t.ovr := rfl
@[simp] theorem resultFlag_berr (r : Bool) (t : Status) : (resultFlag r t).berr = t.berr := rfl
@[simp] theorem resultFlag_errcode (r : Bool) (t : Status) : (resultFlag r t).errcode = t.errcode := rfl

@[simp] theorem ovrFlag_busy (t : Status) : (ovrFlag t).busy = t.busy := rfl
@[simp] theorem ovrFlag_done (t : Status) : (ovrFlag t).done = t.done := rfl
@[simp] theorem ovrFlag_err (t : Status) : (ovrFlag t).err = t.err := rfl
@[simp] theorem ovrFlag_result (t : Status) : (ovrFlag t).result = t.result := rfl
@[simp] theorem ovrFlag_ovr (t : Status) : (ovrFlag t).ovr = true := rfl
@[simp] theorem ovrFlag_berr (t : Status) : (ovrFlag t).berr = t.berr := rfl
@[simp] theorem ovrFlag_errcode (t : Status) : (ovrFlag t).errcode = t.errcode := rfl

@[simp] theorem berrFlag_busy (t : Status) : (berrFlag t).busy = t.busy := rfl
@[simp] theorem berrFlag_done (t : Status) : (berrFlag t).done = t.done := rfl
@[simp] theorem berrFlag_err (t : Status) : (berrFlag t).err = t.err := rfl
@[simp] theorem berrFlag_result (t : Status) : (berrFlag t).result = t.result := rfl
@[simp] theorem berrFlag_ovr (t : Status) : (berrFlag t).ovr = t.ovr := rfl
@[simp] theorem berrFlag_berr (t : Status) : (berrFlag t).berr = true := rfl
@[simp] theorem berrFlag_errcode (t : Status) : (berrFlag t).errcode = t.errcode := rfl

@[simp] theorem clearFlags_busy (w : Word) (t : Status) : (clearFlags w t).busy = t.busy := rfl
@[simp] theorem clearFlags_done (w : Word) (t : Status) : (clearFlags w t).done = (t.done && !w.getLsbD 1) := rfl
@[simp] theorem clearFlags_err (w : Word) (t : Status) : (clearFlags w t).err = (t.err && !w.getLsbD 2) := rfl
@[simp] theorem clearFlags_result (w : Word) (t : Status) : (clearFlags w t).result = t.result := rfl
@[simp] theorem clearFlags_ovr (w : Word) (t : Status) : (clearFlags w t).ovr = (t.ovr && !w.getLsbD 4) := rfl
@[simp] theorem clearFlags_berr (w : Word) (t : Status) : (clearFlags w t).berr = (t.berr && !w.getLsbD 5) := rfl
@[simp] theorem clearFlags_errcode (w : Word) (t : Status) : (clearFlags w t).errcode = t.errcode := rfl

/-! ## Extensionality -/

/-- Two states with equal fields are equal. -/
theorem state_eq {s t : State} (h1 : s.status = t.status) (h2 : s.ie = t.ie) (h3 : s.src = t.src) (h4 : s.dst = t.dst)
    (h5 : s.key = t.key) (h6 : s.aux = t.aux) (h7 : s.len = t.len) (h8 : s.latch = t.latch) (h9 : s.session = t.session)
    (h10 : s.dmem = t.dmem) (h11 : s.schedule = t.schedule) (h12 : s.readData = t.readData) (h13 : s.draws = t.draws) :
    s = t := by
  cases s; cases t; simp_all

end Sys2Proof.Machine
end

