-- ==== Sys2Proof/Laws/Bus.lean ====
section
/-! SUPPORT. What each operation of the host bus can do, said once: where an address leads, what a refusal changes, and what a
transaction can write at all. -/

namespace Sys2Proof.Machine

/-! ## The address map (20_memory.md R60) -/

theorem busTarget_dmem {a : BusAddr} (h : a.toNat < 0x1000) : busTarget a = .dmem a.toNat := by
  simp [busTarget, h]

theorem busTarget_creg {a : BusAddr} (h1 : 0x1000 ≤ a.toNat) (h2 : a.toNat < 0x1040) :
    busTarget a = .creg (ctrlReg a.toNat) := by
  unfold busTarget
  simp only
  rw [if_neg (by omega), if_pos h2]

theorem busTarget_reserved_low {a : BusAddr} (h1 : 0x1040 ≤ a.toNat) (h2 : a.toNat < 0x1100) : busTarget a = .reserved := by
  unfold busTarget
  simp only
  rw [if_neg (by omega), if_neg (by omega), if_pos h2]

theorem busTarget_window {a : BusAddr} (h1 : 0x1100 ≤ a.toNat) (h2 : a.toNat < 0x1180) :
    busTarget a = .window (a.toNat - 0x1100) := by
  unfold busTarget
  simp only
  rw [if_neg (by omega), if_neg (by omega), if_neg (by omega), if_pos h2]

theorem busTarget_reserved_high {a : BusAddr} (h : 0x1180 ≤ a.toNat) : busTarget a = .reserved := by
  unfold busTarget
  simp only
  rw [if_neg (by omega), if_neg (by omega), if_neg (by omega), if_neg (by omega)]

/-- The five rows of the map, as cases of an address. -/
theorem busTarget_cases (a : BusAddr) :
    (a.toNat < 0x1000 ∧ busTarget a = .dmem a.toNat) ∨
    (0x1000 ≤ a.toNat ∧ a.toNat < 0x1040 ∧ busTarget a = .creg (ctrlReg a.toNat)) ∨
    (0x1100 ≤ a.toNat ∧ a.toNat < 0x1180 ∧ busTarget a = .window (a.toNat - 0x1100)) ∨
    (((0x1040 ≤ a.toNat ∧ a.toNat < 0x1100) ∨ 0x1180 ≤ a.toNat) ∧ busTarget a = .reserved) := by
  by_cases h1 : a.toNat < 0x1000
  · exact .inl ⟨h1, busTarget_dmem h1⟩
  by_cases h2 : a.toNat < 0x1040
  · exact .inr (.inl ⟨by omega, h2, busTarget_creg (by omega) h2⟩)
  by_cases h3 : a.toNat < 0x1100
  · exact .inr (.inr (.inr ⟨.inl ⟨by omega, h3⟩, busTarget_reserved_low (by omega) h3⟩))
  by_cases h4 : a.toNat < 0x1180
  · exact .inr (.inr (.inl ⟨by omega, h4, busTarget_window (by omega) h4⟩))
  · exact .inr (.inr (.inr ⟨.inr (by omega), busTarget_reserved_high (by omega)⟩))

/-! ## Refusals (20_memory.md R61, R76; log 8) -/

/-- The addresses whose reads R76 refuses while BUSY = 1. -/
theorem ownedRead_busTarget {a : BusAddr} :
    ownedRead (busTarget a) = decide (a.toNat < 0x1000 ∨ (0x1100 ≤ a.toNat ∧ a.toNat < 0x1180)) := by
  rcases busTarget_cases a with ⟨h, e⟩ | ⟨h, h', e⟩ | ⟨h, h', e⟩ | ⟨h, e⟩ <;> rw [e] <;> simp [ownedRead] <;> omega

/-- The addresses whose writes R76 refuses while BUSY = 1. -/
theorem ownedWrite_busTarget {a : BusAddr} :
    ownedWrite (busTarget a) = decide (a.toNat < 0x1004 ∨ (0x100C ≤ a.toNat ∧ a.toNat < 0x1020)) := by
  rcases busTarget_cases a with ⟨h, e⟩ | ⟨h, h', e⟩ | ⟨h, h', e⟩ | ⟨h, e⟩ <;> rw [e]
  · simp [ownedWrite]; omega
  · unfold ctrlReg
    split
    all_goals first
      | (refine (decide_eq_true ?_).symm; omega)
      | (refine (decide_eq_false ?_).symm; omega)
      | (refine (decide_eq_false ?_).symm; simp only [imp_false] at *; omega)
  · simp [ownedWrite]; omega
  · simp [ownedWrite]; omega

/-- What a refusal for width or alignment does. -/
theorem widthRefused_eq (owned : Bool) (s : State) : widthRefused owned s =
    { s with status := { s.status with berr := true, ovr := s.status.ovr || (owned && s.status.busy) } } := by
  unfold widthRefused
  split <;> simp_all [setOvr, setBerr, ovrFlag, berrFlag]

/-! ## What a read can change -/

/-- A host read changes OVR, BERR, the read data and the draw count, and nothing else (20_memory.md R60, R61, R65, R76). -/
theorem busRead_frame (op : BusOp) (s : State) (h : ∀ a v, op ≠ .write8 a v) (h' : ∀ a w, op ≠ .write32 a w) :
    ∃ o b d n, busStep op s =
      { s with status := { s.status with ovr := o, berr := b }, readData := d, draws := n } := by
  have hw : ∀ owned d, ∃ o b d' n, withReadData d (widthRefused owned s) =
      { s with status := { s.status with ovr := o, berr := b }, readData := d', draws := n } := by
    intro owned d
    rw [widthRefused_eq]
    exact ⟨_, _, _, _, rfl⟩
  cases op with
  | write8 a v => exact absurd rfl (h a v)
  | write32 a w => exact absurd rfl (h' a w)
  | read8 a =>
    simp only [busStep, busRead8]
    rcases busTarget_cases a with ⟨-, e⟩ | ⟨-, -, e⟩ | ⟨-, -, e⟩ | ⟨-, e⟩ <;> rw [e] <;> dsimp only
    · split
      · exact ⟨_, _, _, _, rfl⟩
      · split <;> exact ⟨_, _, _, _, rfl⟩
    · exact hw _ _
    · split <;> exact ⟨_, _, _, _, rfl⟩
    · exact ⟨_, _, _, _, rfl⟩
  | read32 a =>
    simp only [busStep, busRead32]
    rcases busTarget_cases a with ⟨-, e⟩ | ⟨-, -, e⟩ | ⟨-, -, e⟩ | ⟨-, e⟩ <;> rw [e] <;> dsimp only
    · exact hw _ _
    · split
      · exact ⟨_, _, _, _, rfl⟩
      · exact hw _ _
    · exact hw _ _
    · exact ⟨_, _, _, _, rfl⟩

/-! ## What a transaction can change -/

/-- All that one host transaction can do: flags and read data of a refusal or a read; STATUS bits cleared; a soft reset; CTRL.IE;
and, with BUSY = 0 only, a command accepted, one DMEM byte written, or operand registers written (20_memory.md R70, R76). -/
theorem busStep_cases (op : BusOp) (s : State) :
    (∃ o b d n, busStep op s =
      { s with status := { s.status with ovr := o, berr := b }, readData := d, draws := n }) ∨
    (∃ w, busStep op s = { s with status := clearFlags w s.status }) ∨
    (busStep op s = softReset s ∧ ∃ a w, op = .write32 a w ∧ a.toNat = 0x1008 ∧ w.getLsbD 1 = true) ∨
    (∃ b, busStep op s = { s with ie := b }) ∨
    (s.status.busy = false ∧ ((∃ w, busStep op s = acceptCommand w s) ∨
      (∃ i v, i < dmemSize ∧ busStep op s = { s with dmem := memSet s.dmem i v }) ∨
      ∃ a b c d l, busStep op s = { s with src := a, dst := b, key := c, aux := d, len := l })) := by
  have hw : ∀ owned, ∃ o b d n, widthRefused owned s =
      { s with status := { s.status with ovr := o, berr := b }, readData := d, draws := n } := by
    intro owned
    rw [widthRefused_eq]
    exact ⟨_, _, _, _, rfl⟩
  cases op with
  | read8 a => exact .inl (busRead_frame _ _ (by simp) (by simp))
  | read32 a => exact .inl (busRead_frame _ _ (by simp) (by simp))
  | write8 a v =>
    simp only [busStep, busWrite8]
    rcases busTarget_cases a with ⟨ha, e⟩ | ⟨-, -, e⟩ | ⟨-, -, e⟩ | ⟨-, e⟩ <;> rw [e] <;> dsimp only
    · split
      · exact .inl ⟨_, _, _, _, rfl⟩
      · exact .inr (.inr (.inr (.inr ⟨by simp_all, .inr (.inl ⟨_, v, ha, rfl⟩)⟩)))
    · exact .inl (hw _)
    · exact .inl ⟨_, _, _, _, rfl⟩
    · exact .inl ⟨_, _, _, _, rfl⟩
  | write32 a w =>
    simp only [busStep, busWrite32]
    rcases busTarget_cases a with ⟨-, e⟩ | ⟨h1, h2, e⟩ | ⟨-, -, e⟩ | ⟨-, e⟩ <;> rw [e] <;> dsimp only
    · exact .inl (hw _)
    · split
      · rename_i h4
        cases hr : ctrlReg a.toNat <;> simp only [writeCtrl]
        case cmd =>
          split
          · exact .inl ⟨_, _, _, _, rfl⟩
          · exact .inr (.inr (.inr (.inr ⟨by simp_all, .inl ⟨w, rfl⟩⟩)))
        case status => exact .inr (.inl ⟨w, rfl⟩)
        case ctrl =>
          unfold writeCtrlReg
          split
          · rename_i hb
            refine .inr (.inr (.inl ⟨rfl, a, w, rfl, ?_, hb⟩))
            unfold ctrlReg at hr
            split at hr <;> simp at hr
            omega
          · exact .inr (.inr (.inr (.inl ⟨_, rfl⟩)))
        case hsstat => exact .inl ⟨_, _, _, _, rfl⟩
        case reserved => exact .inl ⟨_, _, _, _, rfl⟩
        all_goals
          split
          · exact .inl ⟨_, _, _, _, rfl⟩
          · exact .inr (.inr (.inr (.inr ⟨by simp_all, .inr (.inr ⟨_, _, _, _, _, rfl⟩)⟩)))
      · exact .inl (hw _)
    · exact .inl (hw _)
    · exact .inl ⟨_, _, _, _, rfl⟩

end Sys2Proof.Machine
end

