-- ==== Sys2Proof/Laws/Cipher.lean ====
section
/-! SUPPORT. The small lemmas of the triple cipher and of the MAC: the key halves, block `i` of a chain, and the MAC as a fold. -/

namespace Sys2Proof.Machine

/-! ## The key expansion (41_cipher.md R142) -/

/-- K1 is the first half of the key. -/
theorem slice_key24_0 (k : Bytes 16) : slice (key24 k) 0 8 = lo8 k := by
  apply Vector.ext
  intro i hi
  simp [key24, lo8, cat, List.getElem_append]
  rw [dif_pos (by omega)]

/-- K2 is the second half of the key. -/
theorem slice_key24_8 (k : Bytes 16) : slice (key24 k) 8 8 = hi8 k := by
  apply Vector.ext
  intro i hi
  simp [key24, hi8, cat, List.getElem_append]
  rw [dif_pos (by omega)]

/-- K3 is the first half of the key. -/
theorem slice_key24_16 (k : Bytes 16) : slice (key24 k) 16 8 = lo8 k := by
  apply Vector.ext
  intro i hi
  simp [key24, lo8, cat]

/-- The triple cipher under `k` is EDE(A, B, A), with A and B the halves of `k`. -/
theorem tripleEnc_eq_ede (P : Params) (k : Bytes 16) (x : Block) : tripleEnc P k x = ede P (lo8 k) (hi8 k) (lo8 k) x := by
  unfold tripleEnc
  rw [slice_key24_0, slice_key24_8, slice_key24_16]

/-- Its inverse is DED(A, B, A). -/
theorem tripleDec_eq_ded (P : Params) (k : Bytes 16) (y : Block) : tripleDec P k y = ded P (lo8 k) (hi8 k) (lo8 k) y := by
  unfold tripleDec
  rw [slice_key24_0, slice_key24_8, slice_key24_16]

/-- Decryption undoes encryption, block by block (00_scope.md R7). -/
@[simp] theorem tripleDec_tripleEnc (P : Params) (k : Bytes 16) (x : Block) : tripleDec P k (tripleEnc P k x) = x := by
  simp [tripleDec, tripleEnc, ded, ede, blockEnc, blockDec]

/-- Encryption undoes decryption, block by block (00_scope.md R7). -/
@[simp] theorem tripleEnc_tripleDec (P : Params) (k : Bytes 16) (y : Block) : tripleEnc P k (tripleDec P k y) = y := by
  simp [tripleDec, tripleEnc, ded, ede, blockEnc, blockDec]

/-! ## The chains (41_cipher.md R143) -/

/-- Block `i` of the encrypting chain from `prev`. -/
theorem cbcEnc_getElem (P : Params) (k : Bytes 16) : ∀ (p : List Block) (prev : Block) (i : Nat) (h : i < p.length),
    (cbcEnc P k prev p)[i]'(by rw [cbcEnc_length]; exact h) =
      tripleEnc P k (xorBytes p[i] (if _ : i = 0 then prev else (cbcEnc P k prev p)[i - 1]'(by rw [cbcEnc_length]; omega))) := by
  intro p
  induction p with
  | nil => intro prev i h; simp at h
  | cons b p ih =>
    intro prev i h
    cases i with
    | zero => simp [cbcEnc]
    | succ i =>
      simp only [cbcEnc, List.getElem_cons_succ]
      rw [ih _ i (by simpa using h)]
      cases i with
      | zero => simp
      | succ i => simp

/-- Block `i` of the decrypting chain from `prev`. -/
theorem cbcDec_getElem (P : Params) (k : Bytes 16) : ∀ (ct : List Block) (prev : Block) (i : Nat) (h : i < ct.length),
    (cbcDec P k prev ct)[i]'(by rw [cbcDec_length]; exact h) =
      xorBytes (tripleDec P k ct[i]) (if _ : i = 0 then prev else ct[i - 1]) := by
  intro ct
  induction ct with
  | nil => intro prev i h; simp at h
  | cons b ct ih =>
    intro prev i h
    cases i with
    | zero => simp [cbcDec]
    | succ i =>
      simp only [cbcDec, List.getElem_cons_succ]
      rw [ih _ i (by simpa using h)]
      cases i with
      | zero => simp
      | succ i => simp

/-- Block `i` of `TcbcEnc`. -/
theorem tcbcEnc_getElem (P : Params) (k : Bytes 16) {n : Nat} (p : Vector Block n) (i : Nat) (h : i < n) :
    (tcbcEnc P k p)[i] = tripleEnc P k (xorBytes p[i] (if i = 0 then zeros 8 else (tcbcEnc P k p)[i - 1])) := by
  have := cbcEnc_getElem P k p.toList (zeros 8) i (by simpa using h)
  simp only [tcbcEnc]
  simp at this ⊢
  rw [this]

/-- Block `i` of `TcbcDec`. -/
theorem tcbcDec_getElem (P : Params) (k : Bytes 16) {n : Nat} (ct : Vector Block n) (i : Nat) (h : i < n) :
    (tcbcDec P k ct)[i] = xorBytes (tripleDec P k ct[i]) (if i = 0 then zeros 8 else ct[i - 1]) := by
  have := cbcDec_getElem P k ct.toList (zeros 8) i (by simpa using h)
  simp only [tcbcDec]
  simp at this ⊢
  rw [this]

/-! ## The MAC (42_mac_acr.md R170, R172) -/

/-- Both folds are the fold of `E(A, c ⊕ d)`. -/
theorem macFold_eq (P : Params) (key : Bytes 16) (mode : MacMode) :
    macFold P key mode (slice key 0 8) = fun c d => blockEnc P (lo8 key) (xorBytes c d) := by
  cases mode <;> rfl

/-- Both finalisations are one block of the triple cipher. -/
theorem macFinal_eq (P : Params) (key : Bytes 16) (mode : MacMode) (c : Block) : macFinal P key mode c = tripleEnc P key c := by
  cases mode
  · rw [tripleEnc_eq_ede]
    rfl
  · show (tcbcEnc P key #v[c])[0] = _
    rw [tcbcEnc_getElem]
    simp

/-- The MAC as one fold and one finalisation. -/
theorem mac_eq (P : Params) (key : Bytes 16) (salt : Option Block) (data : List Block) (mode : MacMode) :
    mac P key salt data mode = ((macSeed P key salt mode).1, tripleEnc P key (flipTop
      (data.foldl (fun c d => blockEnc P (lo8 key) (xorBytes c d)) (macSeed P key salt mode).2))) := by
  simp only [mac, macFold_eq, macFinal_eq]

end Sys2Proof.Machine
end

