-- ==== Sys2Proof/Laws/Ops.lean ====
section
/-! SUPPORT. What each shared operation of a command's life can do, said once: the checks, a command body's sequencing, and the
end of a command. -/

namespace Sys2Proof.Machine

/-! ## Sequencing -/

/-- A sequence succeeds exactly when both of its parts do. -/
theorem bind_eq_ok {ε α β : Type} {x : Except ε α} {f : α → Except ε β} {b : β} :
    (x >>= f) = .ok b ↔ ∃ a, x = .ok a ∧ f a = .ok b := by
  cases x with
  | error e => simp [bind, Except.bind]
  | ok a => simp [bind, Except.bind]

/-- A sequence aborts exactly when its first part does, or its second after a success of the first. -/
theorem bind_eq_error {ε α β : Type} {x : Except ε α} {f : α → Except ε β} {e : ε} :
    (x >>= f) = .error e ↔ x = .error e ∨ ∃ a, x = .ok a ∧ f a = .error e := by
  cases x with
  | error e' => simp [bind, Except.bind]
  | ok a => simp [bind, Except.bind]

/-- A sequence whose first part succeeds is its second part. -/
@[simp] theorem ok_bind {ε α β : Type} (a : α) (f : α → Except ε β) : ((Except.ok a : Except ε α) >>= f) = f a := rfl

/-- A sequence whose first part aborts aborts. -/
@[simp] theorem error_bind {ε α β : Type} (e : ε) (f : α → Except ε β) :
    ((Except.error e : Except ε α) >>= f) = .error e := rfl

/-- Returning a value is a success. -/
@[simp] theorem pure_eq_ok {ε α : Type} (a : α) : (pure a : Except ε α) = .ok a := rfl

/-! ## Checks -/

/-- The range check passes exactly when every region fits (30_encoding.md R95). -/
theorem checkRange_eq_ok {rs : List (Nat × Nat)} :
    checkRange rs = .ok () ↔ ∀ r ∈ rs, r.1 + r.2 ≤ dmemSize := by
  induction rs with
  | nil => simp [checkRange]
  | cons r rs ih =>
    obtain ⟨a, n⟩ := r
    simp only [checkRange, fits, List.mem_cons, forall_eq_or_imp]
    by_cases h : a + n ≤ dmemSize
    · simp only [h, decide_true, if_true, ih, true_and]
    · simp [h]

/-- The range check fails exactly when some region does not fit, always with E_RANGE (60_exceptions.md R262). -/
theorem checkRange_eq_error {rs : List (Nat × Nat)} {e : Abort} :
    checkRange rs = .error e ↔ e = .cmdError .range ∧ ∃ r ∈ rs, dmemSize < r.1 + r.2 := by
  induction rs with
  | nil => simp [checkRange]
  | cons r rs ih =>
    obtain ⟨a, n⟩ := r
    simp only [checkRange, fits, List.mem_cons, exists_eq_or_imp]
    by_cases h : a + n ≤ dmemSize
    · simp only [h, decide_true, if_true, ih, Nat.not_lt.mpr h, false_or]
    · simp [h, Nat.lt_of_not_le h, eq_comm]

/-- The length check passes exactly on multiples of 8 (60_exceptions.md R262). -/
theorem checkLen_eq_ok {n : Nat} : checkLen n = .ok () ↔ n % 8 = 0 := by
  unfold checkLen; split <;> simp [*]

/-- The length check fails with E_LEN (60_exceptions.md R262). -/
theorem checkLen_eq_error {n : Nat} {e : Abort} : checkLen n = .error e ↔ e = .cmdError .len ∧ n % 8 ≠ 0 := by
  unfold checkLen
  split
  · simp [*]
  · simp only [Except.error.injEq, ne_eq, *, not_false_eq_true, and_true]
    exact eq_comm

/-- The state check passes exactly outside Complete and Failed (43_handshake.md R229). -/
theorem checkState_eq_ok {st : HsState} : checkState st = .ok () ↔ st ≠ .complete ∧ st ≠ .failed := by
  cases st <;> simp [checkState, hsTerminal]

/-- The state check fails with E_STATE (43_handshake.md R229). -/
theorem checkState_eq_error {st : HsState} {e : Abort} :
    checkState st = .error e ↔ e = .cmdError .state ∧ (st = .complete ∨ st = .failed) := by
  cases st <;> simp [checkState, hsTerminal, eq_comm]

/-! ## The end of a command -/

/-- When a command gives a next state: its body succeeded and it completes, or its body raised a command error, which is taken in
the state it started from (60_exceptions.md R261, R264). -/
theorem finish_eq_next {i : Instr} {s t : State} {r : Except Abort State} :
    finish i s r = .next t ↔ (∃ u, r = .ok u ∧ t = complete u) ∨ ∃ e, r = .error (.cmdError e) ∧ t = takeError e s := by
  rcases r with (e | a) | u <;> simp [finish, eq_comm]

/-- When a command faults (20_memory.md R65). -/
theorem finish_eq_fault {i : Instr} {s : State} {r : Except Abort State} {f : Fault} :
    finish i s r = .fault f ↔ ∃ a, r = .error (.unwritten a) ∧ f = .unwrittenRead i a := by
  rcases r with (e | a) | u <;> simp [finish, eq_comm]

/-- No command is refused. -/
theorem finish_ne_refused {i : Instr} {s : State} {r : Except Abort State} {x : Refusal} : finish i s r ≠ .refused x := by
  rcases r with (e | a) | u <;> simp [finish]

end Sys2Proof.Machine
end

