-- ==== Sys2Proof/Laws/Commands.lean ====
section
/-! SUPPORT. What each command's body can do, said once: `exec` is `finish` of a body; when a body succeeds, with what; and a body
aborts only by a command error with a code or at an unwritten byte of DMEM. -/

namespace Sys2Proof.Machine

/-- The body of each command. -/
def commandBody : Instr → State → Except Abort State
  | .cksum, s => cksumBody s
  | .norm, s => normBody Config.params s
  | .blkD, s => blkBody (blockDec Config.params) s
  | .blkE, s => blkBody (blockEnc Config.params) s
  | .tcbcD, s => tcbcBody (fun _ k p => tcbcDec Config.params k p) s
  | .tcbcE, s => tcbcBody (fun _ k p => tcbcEnc Config.params k p) s
  | .macV, s => macBody Config.params .ver false s
  | .macG, s => macBody Config.params .gen false s
  | .macVS, s => macBody Config.params .ver true s
  | .macGS, s => macBody Config.params .gen true s
  | .acr, s => acrBody Config.params s
  | .hsrst, s => hsrstBody s
  | .hsstep, s => hsstepBody Config.params s
  | .hsrun, s => hsrunBody Config.params s

/-- Every command is the end of its body. -/
theorem exec_eq_finish (i : Instr) (s : State) : exec i s = finish i s (commandBody i s) := by
  cases i <;> rfl

/-! ## Packet checker -/

/-- What `packetOk` answers on a readable packet (40_packet.md R120). -/
theorem packetOk_eq_ok {m : Memory} {a : Nat} {r : Bool} :
    packetOk m a = .ok r ↔ ∃ l, memGet? m (a + 4) = some l ∧ ∃ body, memRead m (a + 5) l.toNat = .ok body ∧
      ∃ ck, memGet? m (a + 5 + l.toNat) = some ck ∧ (xorFold body.toList == ck) = r := by
  simp only [packetOk, bind_eq_ok, memReadByte_eq_ok, pure, Except.pure, Except.ok.injEq]

/-- When CKSUM's body succeeds, and with what (40_packet.md R121). -/
theorem cksumBody_eq_ok {s t : State} (h : cksumBody s = .ok t) :
    ∃ l, memGet? s.dmem (s.src.toNat + 4) = some l ∧ s.src.toNat + (6 + l.toNat) ≤ dmemSize ∧
      ∃ body, memRead s.dmem (s.src.toNat + 5) l.toNat = .ok body ∧
      ∃ ck, memGet? s.dmem (s.src.toNat + 5 + l.toNat) = some ck ∧ t = withResult (xorFold body.toList == ck) s := by
  simp only [cksumBody, bind_eq_ok, memReadByte_eq_ok, pure, Except.pure, Except.ok.injEq, srcAddr] at h
  obtain ⟨⟨⟩, -, l, hl, ⟨⟩, h2, body, hb, ck, hc, rfl⟩ := h
  rw [checkRange_eq_ok] at h2
  exact ⟨l, hl, by simpa using h2, body, hb, ck, hc, rfl⟩

/-- When NORM's body succeeds, and with what (40_packet.md R125). -/
theorem normBody_eq_ok {P : Params} {s t : State} (h : normBody P s = .ok t) :
    s.dst.toNat + 32 ≤ dmemSize ∧ ∃ b, memRead s.dmem (s.src.toNat + 5) 23 = .ok b ∧
      t = withDmem (memWrite s.dmem s.dst.toNat (normalizePacket P b)) s := by
  simp only [normBody, bind_eq_ok, pure, Except.pure, Except.ok.injEq, srcAddr, dstAddr] at h
  obtain ⟨⟨⟩, h1, b, hb, rfl⟩ := h
  rw [checkRange_eq_ok] at h1
  exact ⟨by simpa using h1 (s.dst.toNat, 32) (by simp), b, hb, rfl⟩

/-! ## Triple cipher -/

/-- When BLK's body succeeds, and with what (41_cipher.md R145, R146). -/
theorem blkBody_eq_ok {f : Block → Block → Block} {s t : State} (h : blkBody f s = .ok t) :
    s.dst.toNat + 8 ≤ dmemSize ∧ ∃ k, memRead s.dmem s.key.toNat 8 = .ok k ∧ ∃ x, memRead s.dmem s.src.toNat 8 = .ok x ∧
      t = withDmem (memWrite s.dmem s.dst.toNat (f k x)) s := by
  simp only [blkBody, bind_eq_ok, pure, Except.pure, Except.ok.injEq, srcAddr, dstAddr, keyAddr] at h
  obtain ⟨⟨⟩, h1, k, hk, x, hx, rfl⟩ := h
  rw [checkRange_eq_ok] at h1
  exact ⟨by simpa using h1 (s.dst.toNat, 8) (by simp), k, hk, x, hx, rfl⟩

/-- When TCBC's body succeeds, and with what (41_cipher.md R147, R148). -/
theorem tcbcBody_eq_ok {f : (n : Nat) → Bytes 16 → Vector Block n → Vector Block n} {s t : State} (h : tcbcBody f s = .ok t) :
    s.len.toNat % 8 = 0 ∧ s.dst.toNat + s.len.toNat ≤ dmemSize ∧ ∃ k, memRead s.dmem s.key.toNat 16 = .ok k ∧
      ∃ p, memReadBlocks s.dmem s.src.toNat (s.len.toNat / 8) = .ok p ∧
      t = withDmem (memWriteBlocks s.dmem s.dst.toNat (f (s.len.toNat / 8) k p)) s := by
  simp only [tcbcBody, bind_eq_ok, pure, Except.pure, Except.ok.injEq, srcAddr, dstAddr, keyAddr, lenCount] at h
  obtain ⟨⟨⟩, h0, ⟨⟩, h1, k, hk, p, hp, rfl⟩ := h
  rw [checkRange_eq_ok] at h1
  exact ⟨checkLen_eq_ok.mp h0, by simpa using h1 (s.dst.toNat, s.len.toNat) (by simp), k, hk, p, hp, rfl⟩

/-! ## MAC engine and ACR combiner -/

/-- A MAC without a salt returns no salt (42_mac_acr.md R170). -/
theorem mac_none_fst (P : Params) (k : Bytes 16) (data : List Block) (mode : MacMode) : (mac P k none data mode).1 = none := by
  cases mode <;> rfl

/-- A MAC with a salt returns one (42_mac_acr.md R170). -/
theorem mac_some_fst (P : Params) (k : Bytes 16) (x : Block) (data : List Block) (mode : MacMode) :
    ∃ y, (mac P k (some x) data mode).1 = some y := by
  cases mode <;> exact ⟨_, rfl⟩

/-- When an unsalted MAC's body succeeds, and with what (42_mac_acr.md R174, R176). -/
theorem macBody_false_eq_ok {P : Params} {mode : MacMode} {s t : State} (h : macBody P mode false s = .ok t) :
    s.len.toNat % 8 = 0 ∧ s.dst.toNat + 8 ≤ dmemSize ∧ ∃ k, memRead s.dmem s.key.toNat 16 = .ok k ∧
      ∃ d, memReadBlocks s.dmem s.src.toNat (s.len.toNat / 8) = .ok d ∧
      t = withDmem (memWrite s.dmem s.dst.toNat (mac P k none d.toList mode).2) s := by
  simp only [macBody, bind_eq_ok, pure, Except.pure, Except.ok.injEq, srcAddr, dstAddr, keyAddr, lenCount,
    Bool.false_eq_true, if_false] at h
  obtain ⟨⟨⟩, h0, ⟨⟩, h1, k, hk, d, hd, salt, rfl, h⟩ := h
  rw [checkRange_eq_ok] at h1
  rw [mac_none_fst] at h
  simp only [Except.ok.injEq] at h
  exact ⟨checkLen_eq_ok.mp h0, by simpa using h1 (s.dst.toNat, 8) (by simp), k, hk, d, hd, h.symm⟩

/-- When a salted MAC's body succeeds, and with what (42_mac_acr.md R175, R177). -/
theorem macBody_true_eq_ok {P : Params} {mode : MacMode} {s t : State} (h : macBody P mode true s = .ok t) :
    s.len.toNat % 8 = 0 ∧ s.dst.toNat + 16 ≤ dmemSize ∧ ∃ k, memRead s.dmem s.key.toNat 16 = .ok k ∧
      ∃ d, memReadBlocks s.dmem s.src.toNat (s.len.toNat / 8) = .ok d ∧ ∃ x, memRead s.dmem s.aux.toNat 8 = .ok x ∧
      ∃ y, (mac P k (some x) d.toList mode).1 = some y ∧
      t = withDmem (memWrite (memWrite s.dmem s.dst.toNat (mac P k (some x) d.toList mode).2) (s.dst.toNat + 8) y) s := by
  simp only [macBody, bind_eq_ok, pure, Except.pure, srcAddr, dstAddr, keyAddr, auxAddr, lenCount, if_true] at h
  obtain ⟨⟨⟩, h0, ⟨⟩, h1, k, hk, d, hd, salt, hs, h⟩ := h
  rw [checkRange_eq_ok] at h1
  cases hx : memRead s.dmem s.aux.toNat 8 with
  | error e => simp [hx, Except.map] at hs
  | ok x =>
    rw [hx] at hs
    simp only [Except.map, Except.ok.injEq] at hs
    subst hs
    obtain ⟨y, hy⟩ := mac_some_fst P k x d.toList mode
    rw [hy] at h
    simp only [Except.ok.injEq] at h
    exact ⟨checkLen_eq_ok.mp h0, by simpa using h1 (s.dst.toNat, 16) (by simp), k, hk, d, hd, x, rfl, y, hy, h.symm⟩

/-- When ACR's body succeeds, and with what (42_mac_acr.md R181). -/
theorem acrBody_eq_ok {P : Params} {s t : State} (h : acrBody P s = .ok t) :
    s.dst.toNat + 8 ≤ dmemSize ∧ ∃ v : Block, t = withDmem (memWrite s.dmem s.dst.toNat v) s := by
  simp only [acrBody, bind_eq_ok, pure, Except.pure, Except.ok.injEq, srcAddr, dstAddr, keyAddr, auxAddr] at h
  obtain ⟨⟨⟩, h1, desc, -, key, -, cert, -, sbox, -, ref, -, rfl⟩ := h
  rw [checkRange_eq_ok] at h1
  exact ⟨by simpa using h1 (s.dst.toNat, 8) (by simp), _, rfl⟩

/-! ## Handshake sequencer -/

/-- When HSSTEP's body succeeds, and with what (43_handshake.md R230). -/
theorem hsstepBody_eq_ok {P : Params} {s t : State} (h : hsstepBody P s = .ok t) :
    (s.session.hsState ≠ .complete ∧ s.session.hsState ≠ .failed) ∧ ∃ S, transition P s.dmem s.session = .ok S ∧
      t = withResult (decide (S.hsState ≠ .failed)) (withSession S s) := by
  simp only [hsstepBody, bind_eq_ok, pure, Except.pure, Except.ok.injEq] at h
  obtain ⟨⟨⟩, h0, S, hS, rfl⟩ := h
  exact ⟨checkState_eq_ok.mp h0, S, hS, rfl⟩

/-- When HSRUN's body succeeds, and with what (43_handshake.md R231). -/
theorem hsrunBody_eq_ok {P : Params} {s t : State} (h : hsrunBody P s = .ok t) :
    (s.session.hsState ≠ .complete ∧ s.session.hsState ≠ .failed) ∧ ∃ S, runTransitions P s.dmem 6 s.session = .ok S ∧
      t = withResult (decide (S.hsState = .complete)) (withSession S s) := by
  simp only [hsrunBody, bind_eq_ok, pure, Except.pure, Except.ok.injEq] at h
  obtain ⟨⟨⟩, h0, S, hS, rfl⟩ := h
  exact ⟨checkState_eq_ok.mp h0, S, hS, rfl⟩

/-- A transition is `settle` of its body (43_handshake.md R211). -/
theorem transition_eq_ok {P : Params} {m : Memory} {S S' : Session} (h : transition P m S = .ok S') :
    ∃ v, transitionBody P m S = .ok v ∧ S' = settle S.hsState v := by
  simp only [transition, bind_eq_ok, pure, Except.pure, Except.ok.injEq] at h
  obtain ⟨v, hv, rfl⟩ := h
  exact ⟨v, hv, rfl⟩

/-! ## How a body aborts -/

/-- `r` aborts only with a command error that has a code, or at an unwritten byte of DMEM (20_memory.md R65; 60_exceptions.md
R260). -/
def AbortsOnlyAt {α : Type} (m : Memory) (r : Except Abort α) : Prop :=
  ∀ e, r = .error e → (∃ c, c ≠ ErrCode.none ∧ e = .cmdError c) ∨ ∃ a, a < dmemSize ∧ memGet? m a = none ∧ e = .unwritten a

theorem AbortsOnlyAt.ok {α : Type} {m : Memory} (a : α) : AbortsOnlyAt m (.ok a) := by
  intro e h; simp at h

theorem AbortsOnlyAt.pure {α : Type} {m : Memory} (a : α) : AbortsOnlyAt m (Pure.pure a : Except Abort α) := AbortsOnlyAt.ok a

theorem AbortsOnlyAt.bind {α β : Type} {m : Memory} {x : Except Abort α} {f : α → Except Abort β} (hx : AbortsOnlyAt m x)
    (hf : ∀ a, x = .ok a → AbortsOnlyAt m (f a)) : AbortsOnlyAt m (x >>= f) := by
  intro e h
  rcases bind_eq_error.mp h with h | ⟨a, ha, h⟩
  · exact hx e h
  · exact hf a ha e h

theorem AbortsOnlyAt.ite {α : Type} {m : Memory} {p : Prop} [Decidable p] {x y : Except Abort α} (hx : AbortsOnlyAt m x)
    (hy : AbortsOnlyAt m y) : AbortsOnlyAt m (if p then x else y) := by
  split <;> assumption

theorem AbortsOnlyAt.checkRange (m : Memory) (rs : List (Nat × Nat)) : AbortsOnlyAt m (checkRange rs) := by
  intro e h
  exact .inl ⟨.range, by simp, (checkRange_eq_error.mp h).1⟩

theorem AbortsOnlyAt.checkLen (m : Memory) (n : Nat) : AbortsOnlyAt m (checkLen n) := by
  intro e h
  exact .inl ⟨.len, by simp, (checkLen_eq_error.mp h).1⟩

theorem AbortsOnlyAt.checkState (m : Memory) (st : HsState) : AbortsOnlyAt m (checkState st) := by
  intro e h
  exact .inl ⟨.state, by simp, (checkState_eq_error.mp h).1⟩

theorem AbortsOnlyAt.memReadByte {m : Memory} {a : Nat} (h : a < dmemSize) : AbortsOnlyAt m (memReadByte m a) := by
  intro e he
  obtain ⟨h1, h2⟩ := memReadByte_eq_error.mp he
  exact .inr ⟨a, h, h1, h2⟩

theorem AbortsOnlyAt.memRead {m : Memory} {a n : Nat} (h : a + n ≤ dmemSize) : AbortsOnlyAt m (memRead m a n) := by
  intro e he
  obtain ⟨i, hi, h1, h2⟩ := memRead_eq_error he
  exact .inr ⟨a + i, by omega, h1, h2⟩

theorem AbortsOnlyAt.memReadBlocks {m : Memory} {a n : Nat} (h : a + 8 * n ≤ dmemSize) :
    AbortsOnlyAt m (memReadBlocks m a n) := by
  intro e he
  obtain ⟨i, hi, h1, h2⟩ := memReadBlocks_eq_error he
  exact .inr ⟨a + i, by omega, h1, h2⟩

theorem AbortsOnlyAt.packetOk {m : Memory} {a : Nat} (h : a + 262 ≤ dmemSize) : AbortsOnlyAt m (packetOk m a) := by
  refine .bind (.memReadByte (by omega)) fun l _ => ?_
  have := l.isLt
  exact .bind (.memRead (by omega)) fun _ _ => .bind (.memReadByte (by omega)) fun _ _ => .pure _

/-- Every transition aborts only at an unwritten byte of DMEM. -/
theorem transitionBody_aborts (P : Params) (m : Memory) (S : Session) : AbortsOnlyAt m (transitionBody P m S) := by
  have hacr : ∀ S k, AbortsOnlyAt m (sessionAcr P m S k) := fun S k =>
    .bind (.memRead (by decide)) fun _ _ => .bind (.memRead (by decide)) fun _ _ => .pure _
  unfold transitionBody
  split
  · exact .bind (.packetOk (by decide)) fun _ _ => .ite (.pure _) (.bind (.memRead (by decide)) fun _ _ => .pure _)
  · exact .bind (.packetOk (by decide)) fun _ _ => .ite (.pure _) (.bind (.memReadBlocks (by decide)) fun _ _ =>
      .bind (.memRead (by decide)) fun _ _ => .bind (.memRead (by decide)) fun _ _ => .bind (.memRead (by decide)) fun _ _ =>
      .bind (.memRead (by decide)) fun _ _ => .bind (.memRead (by decide)) fun _ _ => .ite (.pure _) (.pure _))
  · exact .bind (.packetOk (by decide)) fun _ _ => .ite (.pure _) (.bind (.memReadBlocks (by decide)) fun _ _ =>
      .ite (.pure _) (.bind (hacr _ _) fun _ _ => .bind (.memRead (by decide)) fun _ _ => .ite (.pure _) (.pure _)))
  · exact .bind (.packetOk (by decide)) fun _ _ => .ite (.pure _) (.bind (.memReadBlocks (by decide)) fun _ _ =>
      .bind (.memRead (by decide)) fun _ _ => .ite (.pure _) (.pure _))
  · exact .bind (.packetOk (by decide)) fun _ _ => .ite (.pure _) (.bind (.memReadBlocks (by decide)) fun _ _ =>
      .bind (.memRead (by decide)) fun _ _ => .ite (.pure _) (.pure _))
  · exact .bind (hacr _ _) fun _ _ => .ite (.pure _) (.pure _)
  · exact .ok _
  · exact .ok _

theorem transition_aborts (P : Params) (m : Memory) (S : Session) : AbortsOnlyAt m (transition P m S) :=
  .bind (transitionBody_aborts P m S) fun _ _ => .pure _

theorem runTransitions_aborts (P : Params) (m : Memory) : ∀ (n : Nat) (S : Session), AbortsOnlyAt m (runTransitions P m n S) := by
  intro n
  induction n with
  | zero => intro S; exact .ok _
  | succ n ih =>
    intro S
    refine .ite (.ok _) ?_
    intro e h
    cases hS : transition P m S with
    | error e' =>
      rw [hS] at h
      exact transition_aborts P m S e (by simpa [hS] using h)
    | ok S' =>
      rw [hS] at h
      exact ih S' e h

/-- Every command's body aborts only with a command error that has a code, or at an unwritten byte of DMEM. -/
theorem commandBody_aborts (i : Instr) (s : State) : AbortsOnlyAt s.dmem (commandBody i s) := by
  have hlen := s.len.isLt
  have hblk : ∀ f, AbortsOnlyAt s.dmem (blkBody f s) := by
    intro f
    refine .bind (.checkRange _ _) fun ⟨⟩ h => ?_
    rw [checkRange_eq_ok] at h
    simp only [List.mem_cons, List.not_mem_nil, or_false, forall_eq_or_imp, forall_eq] at h
    exact .bind (.memRead h.2.1) fun _ _ => .bind (.memRead h.1) fun _ _ => .pure _
  have htcbc : ∀ f, AbortsOnlyAt s.dmem (tcbcBody f s) := by
    intro f
    refine .bind (.checkLen _ _) fun ⟨⟩ _ => .bind (.checkRange _ _) fun ⟨⟩ h => ?_
    rw [checkRange_eq_ok] at h
    simp only [List.mem_cons, List.not_mem_nil, or_false, forall_eq_or_imp, forall_eq] at h
    exact .bind (.memRead h.2.1) fun _ _ => .bind (.memReadBlocks (by omega)) fun _ _ => .pure _
  have hmac : ∀ mode saltEn, AbortsOnlyAt s.dmem (macBody Config.params mode saltEn s) := by
    intro mode saltEn
    refine .bind (.checkLen _ _) fun ⟨⟩ _ => .bind (.checkRange _ _) fun ⟨⟩ h => ?_
    rw [checkRange_eq_ok] at h
    have hn := h (srcAddr s, lenCount s) (by simp)
    simp only at hn
    refine .bind (.memRead (h (keyAddr s, 16) (by simp))) fun k _ => .bind (.memReadBlocks (by omega)) fun d _ => ?_
    dsimp only
    split
    · rename_i hs
      have hx : AbortsOnlyAt s.dmem ((memRead s.dmem (auxAddr s) 8).map some) := by
        have ha := AbortsOnlyAt.memRead (m := s.dmem) (h (auxAddr s, 8) (by simp [hs]))
        intro e he
        cases hm : memRead s.dmem (auxAddr s) 8 with
        | error e' => exact ha e (by simpa [hm, Except.map] using he)
        | ok x => simp [hm, Except.map] at he
      refine .bind hx fun x _ => ?_
      split <;> exact .pure _
    · refine .bind (.pure _) fun x _ => ?_
      split <;> exact .pure _
  cases i
  case cksum =>
    refine .bind (.checkRange _ _) fun ⟨⟩ h => ?_
    rw [checkRange_eq_ok] at h
    have h1 := h (srcAddr s, 5) (by simp)
    simp only at h1
    refine .bind (.memReadByte (by omega)) fun l _ => .bind (.checkRange _ _) fun ⟨⟩ h2 => ?_
    rw [checkRange_eq_ok] at h2
    have h3 := h2 (srcAddr s, 6 + l.toNat) (by simp)
    simp only at h3
    exact .bind (.memRead (by omega)) fun _ _ => .bind (.memReadByte (by omega)) fun _ _ => .pure _
  case norm =>
    refine .bind (.checkRange _ _) fun ⟨⟩ h => ?_
    rw [checkRange_eq_ok] at h
    have h1 := h (srcAddr s, 28) (by simp)
    simp only at h1
    exact .bind (.memRead (by omega)) fun _ _ => .pure _
  case blkD => exact hblk _
  case blkE => exact hblk _
  case tcbcD => exact htcbc _
  case tcbcE => exact htcbc _
  case macV => exact hmac _ _
  case macG => exact hmac _ _
  case macVS => exact hmac _ _
  case macGS => exact hmac _ _
  case acr =>
    refine .bind (.checkRange _ _) fun ⟨⟩ h => ?_
    rw [checkRange_eq_ok] at h
    simp only [List.mem_cons, List.not_mem_nil, or_false, forall_eq_or_imp, forall_eq] at h
    exact .bind (.memRead h.1) fun _ _ => .bind (.memRead h.2.1) fun _ _ => .bind (.memRead h.2.2.1) fun _ _ =>
      .bind (.memRead (by decide)) fun _ _ => .bind (.memRead (by decide)) fun _ _ => .pure _
  case hsrst => exact .ok _
  case hsstep => exact .bind (.checkState _ _) fun _ _ => .bind (transition_aborts _ _ _) fun _ _ => .pure _
  case hsrun => exact .bind (.checkState _ _) fun _ _ => .bind (runTransitions_aborts _ _ _ _) fun _ _ => .pure _

/-! ## What a command does -/

/-- When a command gives a next state: its body succeeded and it completes, or its body raised a command error, with a code, which
is taken (60_exceptions.md R261, R264). -/
theorem exec_eq_next {i : Instr} {s t : State} (h : exec i s = .next t) :
    (∃ u, commandBody i s = .ok u ∧ t = complete u) ∨
      ∃ e, e ≠ ErrCode.none ∧ commandBody i s = .error (.cmdError e) ∧ t = takeError e s := by
  rw [exec_eq_finish, finish_eq_next] at h
  rcases h with h | ⟨e, h, rfl⟩
  · exact .inl h
  · rcases commandBody_aborts i s _ h with ⟨c, hc, hh⟩ | ⟨a, _, _, hh⟩
    · cases hh
      exact .inr ⟨e, hc, h, rfl⟩
    · cases hh

/-- All that a body can write: DMEM, in the canonical form, the session and RESULT (30_encoding.md R94); the session only by the
handshake commands (10_state.md R44), RESULT only by CKSUM, HSSTEP and HSRUN (10_state.md R32). -/
theorem commandBody_frame {i : Instr} {s u : State} (h : commandBody i s = .ok u) :
    ∃ m S r, u = withDmem m (withSession S (withResult r s)) ∧
      (i ≠ .cksum → i ≠ .hsstep → i ≠ .hsrun → r = s.status.result) ∧
      (i ≠ .hsrst → i ≠ .hsstep → i ≠ .hsrun → S = s.session) ∧ (Memory.wf s.dmem → Memory.wf m) := by
  have key : ∀ m, withDmem m s = withDmem m (withSession s.session (withResult s.status.result s)) := by intro m; rfl
  have key2 : ∀ r, withResult r s = withDmem s.dmem (withSession s.session (withResult r s)) := by intro m; rfl
  cases i
  case cksum =>
    obtain ⟨l, h1, h2, b, h3, ck, h4, rfl⟩ := cksumBody_eq_ok h
    exact ⟨_, _, _, key2 _, by simp, by simp, id⟩
  case norm =>
    obtain ⟨h1, b, h2, rfl⟩ := normBody_eq_ok h
    exact ⟨_, _, _, key _, by simp, by simp, memWrite_wf h1⟩
  case blkD =>
    obtain ⟨h1, k, hk, b, h2, rfl⟩ := blkBody_eq_ok h
    exact ⟨_, _, _, key _, by simp, by simp, memWrite_wf h1⟩
  case blkE =>
    obtain ⟨h1, k, hk, b, h2, rfl⟩ := blkBody_eq_ok h
    exact ⟨_, _, _, key _, by simp, by simp, memWrite_wf h1⟩
  case tcbcD =>
    obtain ⟨h0, h1, k, hk, b, h2, rfl⟩ := tcbcBody_eq_ok h
    exact ⟨_, _, _, key _, by simp, by simp, memWriteBlocks_wf (by omega)⟩
  case tcbcE =>
    obtain ⟨h0, h1, k, hk, b, h2, rfl⟩ := tcbcBody_eq_ok h
    exact ⟨_, _, _, key _, by simp, by simp, memWriteBlocks_wf (by omega)⟩
  case macV =>
    obtain ⟨h0, h1, k, hk, b, h2, rfl⟩ := macBody_false_eq_ok h
    exact ⟨_, _, _, key _, by simp, by simp, memWrite_wf h1⟩
  case macG =>
    obtain ⟨h0, h1, k, hk, b, h2, rfl⟩ := macBody_false_eq_ok h
    exact ⟨_, _, _, key _, by simp, by simp, memWrite_wf h1⟩
  case macVS =>
    obtain ⟨h0, h1, k, hk, b, h2, x, hx, y, hy, rfl⟩ := macBody_true_eq_ok h
    exact ⟨_, _, _, key _, by simp, by simp, fun hm => memWrite_wf (by omega) (memWrite_wf (by omega) hm)⟩
  case macGS =>
    obtain ⟨h0, h1, k, hk, b, h2, x, hx, y, hy, rfl⟩ := macBody_true_eq_ok h
    exact ⟨_, _, _, key _, by simp, by simp, fun hm => memWrite_wf (by omega) (memWrite_wf (by omega) hm)⟩
  case acr =>
    obtain ⟨h1, v, rfl⟩ := acrBody_eq_ok h
    exact ⟨_, _, _, key _, by simp, by simp, memWrite_wf h1⟩
  case hsrst =>
    simp only [commandBody, hsrstBody, Except.ok.injEq] at h
    subst h
    exact ⟨s.dmem, Session.reset, s.status.result, rfl, by simp, by simp, id⟩
  case hsstep =>
    obtain ⟨h0, S, hS, rfl⟩ := hsstepBody_eq_ok h
    exact ⟨s.dmem, S, _, rfl, by simp, by simp, id⟩
  case hsrun =>
    obtain ⟨h0, S, hS, rfl⟩ := hsrunBody_eq_ok h
    exact ⟨s.dmem, S, _, rfl, by simp, by simp, id⟩

end Sys2Proof.Machine
end

