-- ==== Sys2Proof/Laws/Handshake.lean ====
section
/-! SUPPORT. What a transition of the handshake sequencer can do, said once: which kinds of failure it can end in, which verdict
registers it leaves, and the step that HSSTEP makes of it. -/

namespace Sys2Proof.Machine

/-- A transition that passes leaves FAIL_KIND and FAIL_AT as they were; one that fails has a kind (43_handshake.md R212). -/
theorem transitionBody_verdict {P : Params} {m : Memory} {S : Session} {v : Verdict} (h : transitionBody P m S = .ok v) :
    match v with
    | .pass S' => S'.failKind = S.failKind ∧ S'.failAt = S.failAt
    | .fail k _ => k ≠ .noFailure := by
  unfold transitionBody at h
  split at h
  · simp only [t0, bind_eq_ok] at h
    obtain ⟨ok, -, h⟩ := h
    split at h
    · cases h; simp
    · simp only [bind_eq_ok] at h
      obtain ⟨b, -, h⟩ := h
      cases h; exact ⟨rfl, rfl⟩
  · simp only [t1, bind_eq_ok] at h
    obtain ⟨ok, -, h⟩ := h
    split at h
    · cases h; simp
    · simp only [bind_eq_ok] at h
      obtain ⟨_, -, _, -, _, -, _, -, _, -, _, -, h⟩ := h
      split at h
      · cases h; simp
      · cases h; exact ⟨rfl, rfl⟩
  · simp only [t2, bind_eq_ok] at h
    obtain ⟨ok, -, h⟩ := h
    split at h
    · cases h; simp
    · simp only [bind_eq_ok] at h
      obtain ⟨_, -, h⟩ := h
      split at h
      · cases h; simp
      · simp only [bind_eq_ok] at h
        obtain ⟨_, -, _, -, h⟩ := h
        split at h
        · cases h; simp
        · cases h; exact ⟨rfl, rfl⟩
  · have hi : (interchange P S).failKind = S.failKind ∧ (interchange P S).failAt = S.failAt := by
      unfold interchange
      cases P.xchg <;> exact ⟨rfl, rfl⟩
    simp only [t3, bind_eq_ok] at h
    obtain ⟨ok, -, h⟩ := h
    split at h
    · cases h; simp
    · simp only [bind_eq_ok] at h
      obtain ⟨_, -, _, -, h⟩ := h
      split at h
      · cases h; simp
      · cases h; exact hi
  · simp only [t4, bind_eq_ok] at h
    obtain ⟨ok, -, h⟩ := h
    split at h
    · cases h; simp
    · simp only [bind_eq_ok] at h
      obtain ⟨_, -, _, -, h⟩ := h
      split at h
      · cases h; simp
      · cases h; exact ⟨rfl, rfl⟩
  · simp only [t5, bind_eq_ok] at h
    obtain ⟨_, -, h⟩ := h
    split at h
    · cases h; simp
    · cases h; exact ⟨rfl, rfl⟩
  · cases h; exact ⟨rfl, rfl⟩
  · cases h; exact ⟨rfl, rfl⟩

/-- HSSTEP outside a terminal state, once its transition's body is known (43_handshake.md R211, R212, R230). -/
theorem exec_hsstep_of {s : State} {v : Verdict} (h0 : s.session.hsState ≠ .complete ∧ s.session.hsState ≠ .failed)
    (h : transitionBody Config.params s.dmem s.session = .ok v) :
    exec .hsstep s = .next (complete (withResult (decide ((settle s.session.hsState v).hsState ≠ .failed))
      (withSession (settle s.session.hsState v) s))) := by
  have hc := checkState_eq_ok.mpr h0
  simp [exec, execHsstep, hsstepBody, hc, transition, h, finish]

end Sys2Proof.Machine
end

