-- ==== Sys2Proof/Laws/PerInstr.lean ====
section
/-! SUPPORT. Facts about every instruction as syntax, one lemma per constructor. -/

namespace Sys2Proof.Laws.WordIsLegal

/-- The word of command `i` has the fields of its row, and they pass the four checks of 30_encoding.md R96. -/
def Statement (i : Instr) : Prop := CmdWord.ofWord (encode i) = i.fields ∧ i.fields.wf = true

theorem cksum : Statement .cksum := ⟨by decide, by decide⟩
theorem norm : Statement .norm := ⟨by decide, by decide⟩
theorem blkD : Statement .blkD := ⟨by decide, by decide⟩
theorem blkE : Statement .blkE := ⟨by decide, by decide⟩
theorem tcbcD : Statement .tcbcD := ⟨by decide, by decide⟩
theorem tcbcE : Statement .tcbcE := ⟨by decide, by decide⟩
theorem macV : Statement .macV := ⟨by decide, by decide⟩
theorem macG : Statement .macG := ⟨by decide, by decide⟩
theorem macVS : Statement .macVS := ⟨by decide, by decide⟩
theorem macGS : Statement .macGS := ⟨by decide, by decide⟩
theorem acr : Statement .acr := ⟨by decide, by decide⟩
theorem hsrst : Statement .hsrst := ⟨by decide, by decide⟩
theorem hsstep : Statement .hsstep := ⟨by decide, by decide⟩
theorem hsrun : Statement .hsrun := ⟨by decide, by decide⟩

end Sys2Proof.Laws.WordIsLegal
end

