-- ==== Sys2Proof/Tests/Slice0.lean ====
section
/-! SUPPORT. The model's own tests. Expected values come from spec/: the words of 30_encoding.md R93, the vectors V-… of
95_test_vectors.md, with the toy primitives of its §2 (which are not the hardware's) where a vector needs them. At the end, a witness
for every obligation that has hypotheses. -/

namespace Sys2Proof.Tests

open Sys2Proof Sys2Proof.Machine

/-! ## Well-formedness smoke: one ill-formed word for each check (30_encoding.md R96) -/

theorem test_wf_refuses_reserved_bits : (CmdWord.ofWord 0x00000144).rsvdOk = false ∧ (CmdWord.ofWord 0x00000144).wf = false := by decide
theorem test_wf_refuses_reserved_op : (CmdWord.ofWord 0x0000000A).opOk = false ∧ (CmdWord.ofWord 0x0000000A).wf = false := by decide
theorem test_wf_refuses_mode_bit : (CmdWord.ofWord 0x00000041).modeOk = false ∧ (CmdWord.ofWord 0x00000041).wf = false := by decide
theorem test_wf_refuses_salt_bit : (CmdWord.ofWord 0x00000084).saltOk = false ∧ (CmdWord.ofWord 0x00000084).wf = false := by decide

/-! ## Decoding: the words written out from the table of 30_encoding.md R93 -/

theorem test_decode_cksum : decode 0b00000000000000000000000000000001 = .ok .cksum := by decide
theorem test_decode_norm : decode 0b00000000000000000000000000000010 = .ok .norm := by decide
theorem test_decode_blkD : decode 0b00000000000000000000000000000011 = .ok .blkD := by decide
theorem test_decode_blkE : decode 0b00000000000000000000000001000011 = .ok .blkE := by decide
theorem test_decode_tcbcD : decode 0b00000000000000000000000000000100 = .ok .tcbcD := by decide
theorem test_decode_tcbcE : decode 0b00000000000000000000000001000100 = .ok .tcbcE := by decide
theorem test_decode_macV : decode 0b00000000000000000000000000000101 = .ok .macV := by decide
theorem test_decode_macG : decode 0b00000000000000000000000001000101 = .ok .macG := by decide
theorem test_decode_macVS : decode 0b00000000000000000000000010000101 = .ok .macVS := by decide
theorem test_decode_macGS : decode 0b00000000000000000000000011000101 = .ok .macGS := by decide
theorem test_decode_acr : decode 0b00000000000000000000000000000110 = .ok .acr := by decide
theorem test_decode_hsrst : decode 0b00000000000000000000000000000111 = .ok .hsrst := by decide
theorem test_decode_hsstep : decode 0b00000000000000000000000000001000 = .ok .hsstep := by decide
theorem test_decode_hsrun : decode 0b00000000000000000000000000001001 = .ok .hsrun := by decide

/-- V-ERR-1 to V-ERR-5: each is refused under the name of its class. -/
theorem test_decode_illegal :
    decode 0x00000000 = .error .reservedOp ∧ decode 0x00000144 = .error .reservedBits ∧ decode 0x00000041 = .error .modeBit ∧
    decode 0x00000084 = .error .saltBit ∧ decode 0x0000000A = .error .reservedOp := by decide

/-- The two fixed entry points of the host: the table's bits decode, and the next step runs the command. -/
theorem test_decodeTableWord : decodeTableWord 32 0x000000C5 = some .macGS ∧ decodeTableWord 32 0x0000000A = none := by decide

/-! ## The toy primitives (95_test_vectors.md §2) -/

/-- The 64-bit value of a block. -/
def v64 (b : Block) : BitVec 64 := BitVec.ofNat 64 (be64 b)

/-- The block of a 64-bit value. -/
def b64 (v : BitVec 64) : Block := tob8 v.toNat

theorem v64_b64 (v : BitVec 64) : v64 (b64 v) = v := by
  simp [v64, b64, be64_tob8 _ v.isLt]

theorem b64_v64 (b : Block) : b64 (v64 b) = b := by
  have h : be64 b % 2 ^ 64 = be64 b := Nat.mod_eq_of_lt (be64_lt b)
  rw [v64, b64, BitVec.toNat_ofNat, h, tob8_be64]

/-- Rotation left by 13. -/
def rotl13 (v : BitVec 64) : BitVec 64 := v.extractLsb' 0 51 ++ v.extractLsb' 51 13

/-- Rotation right by 13. -/
def rotr13 (v : BitVec 64) : BitVec 64 := v.extractLsb' 0 13 ++ v.extractLsb' 13 51

theorem getLsbD_rotl13 (v : BitVec 64) (i : Nat) (h : i < 64) :
    (rotl13 v).getLsbD i = v.getLsbD (if i < 13 then i + 51 else i - 13) := by
  unfold rotl13
  rw [BitVec.getLsbD_append]
  split <;> rw [BitVec.getLsbD_extractLsb', decide_eq_true (by omega), Bool.true_and] <;> congr 1 <;> omega

theorem getLsbD_rotr13 (v : BitVec 64) (i : Nat) (h : i < 64) :
    (rotr13 v).getLsbD i = v.getLsbD (if i < 51 then i + 13 else i - 51) := by
  unfold rotr13
  rw [BitVec.getLsbD_append]
  split <;> rw [BitVec.getLsbD_extractLsb', decide_eq_true (by omega), Bool.true_and] <;> congr 1 <;> omega

theorem rotr13_rotl13 (v : BitVec 64) : rotr13 (rotl13 v) = v := by
  apply BitVec.eq_of_getLsbD_eq
  intro i hi
  rw [getLsbD_rotr13 _ _ hi]
  split <;> (rw [getLsbD_rotl13 _ _ (by omega)]; split <;> congr 1 <;> omega)

theorem rotl13_rotr13 (v : BitVec 64) : rotl13 (rotr13 v) = v := by
  apply BitVec.eq_of_getLsbD_eq
  intro i hi
  rw [getLsbD_rotl13 _ _ hi]
  split <;> (rw [getLsbD_rotr13 _ _ (by omega)]; split <;> congr 1 <;> omega)

/-- The toy cipher: `rotl(13, (x + k)·C)`. -/
def toyCipher (k : Block) : Equiv.Perm Block where
  toFun x := b64 (rotl13 ((v64 x + v64 k) * 0x9E3779B97F4A7C15))
  invFun y := b64 (rotr13 (v64 y) * 0xF1DE83E19937733D - v64 k)
  left_inv x := by
    simp [v64_b64, rotr13_rotl13, BitVec.mul_assoc, b64_v64]
  right_inv y := by
    simp [v64_b64, BitVec.mul_assoc, rotl13_rotr13, b64_v64]

/-- The toy ParveEcb: a table lookup of each byte under the key byte at its place. -/
def toyEcb (n : Nat) (k : Block) (sb : Bytes 256) (d : Bytes (8 * n)) : Bytes (8 * n) :=
  ⟨(d.toList.zipIdx.map (fun p => sb.toList.getD (p.1 ^^^ k.toList.getD (p.2 % 8) 0).toNat 0)).toArray, by simp⟩

/-- The toy parameters. -/
def toy : Params where
  cipher := toyCipher
  parveEcb := toyEcb
  parveCbcMac k sb iv r := (List.finRange 16).foldl
    (fun c i => toyEcb 1 k sb (xorBytes c (slice r (8 * i.val) 8 (by omega)))) (xorBytes (lo8 iv) (hi8 iv))
  chainAndSum cd ab r := b64 (v64 cd + v64 ab + BitVec.ofNat 64
    ((List.range 16).map (fun i => ((r.toList.drop (8 * i)).take 8).foldl (fun acc x => acc * 256 + x.toNat) 0)).sum)
  contentHash ct pt := xorBytes (slice pt 0 16) (slice ct 16 16)

/-! ## Helpers -/

/-- The bytes `a, a + 1, …` of a rising run. -/
def rising (a n : Nat) : List Byte := (List.range n).map (fun i => BitVec.ofNat 8 (a + i))

/-- `s` with bytes loaded into DMEM. -/
def load (a : Nat) (b : List Byte) (s : State) : State := withDmem (memWriteList s.dmem a b) s

/-- The cells of a run of bytes from `a` on. -/
def row (a : Nat) (b : List Byte) : Memory := b.zipIdx.map (fun p => (a + p.2, p.1))

/-- The reset state with its operand registers set. -/
def withRegs (src dst key aux len : Nat) : State :=
  { State.reset with src := .ofNat 12 src, dst := .ofNat 12 dst, key := .ofNat 12 key, aux := .ofNat 12 aux, len := .ofNat 13 len }

/-- `n` DMEM bytes from `a` on after a body. -/
def bytesAfter (r : Except Abort State) (a n : Nat) : List (Option Byte) :=
  match r with
  | .ok t => (List.range n).map (fun i => memGet? t.dmem (a + i))
  | .error _ => []

/-- STATUS after the command word `w` is written to CMD and executed, starting in `s`. -/
def statusAfter (w : Nat) (s : State) : Option Word :=
  match step (s.withFetchWord 32 w) with
  | .next t => some (statusWord t.status)
  | _ => none

/-- STATUS after body `r` ends in `s`. -/
def statusOf (i : Instr) (s : State) (r : Except Abort State) : Option Word :=
  match finish i s r with
  | .next t => some (statusWord t.status)
  | _ => none

/-- The fault an outcome is, if it is one. -/
def faultOf (r : Host.Outcome State Fault Refusal) : Option Fault :=
  match r with
  | .fault f => some f
  | _ => none

/-- HSSTAT and the window after a handshake body. -/
def sessionAfter (r : Except Abort State) : Option (Word × List Byte) :=
  match r with
  | .ok t => some (hsstatWord t.session, (sessionWindow t.session).toList)
  | .error _ => none

/-! ## Vectors: packet checker -/

/-- V-CK-1: RESULT = 1, STATUS = 0x00A. -/
theorem test_cksum_pass : statusAfter 0x00000001
    (load 0xC00 [0x00, 0x01, 0x00, 0x00, 0x03, 0x11, 0x22, 0x44, 0x77] (withRegs 0xC00 0 0 0 0)) = some 0x0000000A := by decide

/-- V-CK-3 and V-CK-7: a flipped body byte gives STATUS = 0x002; a packet past the end of DMEM gives 0x406. -/
theorem test_cksum_fail_and_range :
    statusAfter 0x00000001
      (load 0xC00 [0x00, 0x01, 0x00, 0x00, 0x03, 0x11, 0x23, 0x44, 0x77] (withRegs 0xC00 0 0 0 0)) = some 0x00000002 ∧
    statusAfter 0x00000001 (load 0xFF4 [0x20] (withRegs 0xFF0 0 0 0 0)) = some 0x00000406 := by decide

/-- The packet P1 of the vectors. -/
def p1 : List Byte :=
  [0x00, 0x01, 0x00, 0x00, 0x17] ++ rising 0xE0 15 ++ [0x12, 0x34, 0x56, 0x78, 0x9A, 0xBC, 0xDE, 0xF0, 0xEF]

/-- The descriptor of V-NORM-1. -/
def descriptor1 : List Byte :=
  rising 0xE0 15 ++ [0x00, 0x12, 0x34, 0x56, 0x78, 0x9A, 0xF0, 0xBC, 0xDE, 0x00, 0x00, 0x00, 0x00, 0x00, 0x00, 0x00, 0x00]

/-- V-NORM-4: the output overlaps the body and is computed from the bytes before the write. -/
theorem test_norm_overlap :
    bytesAfter (normBody toy (load 0x200 p1 (withRegs 0x200 0x205 0 0 0))) 0x205 32 = descriptor1.map some := by decide

/-- V-NORM-2: P_NORM_REPACK = LE. -/
theorem test_norm_le :
    bytesAfter (normBody { toy with normRepack := .le } (load 0x200 p1 (withRegs 0x200 0xD00 0 0 0))) 0xD10 8 =
      [some 0x34, some 0x12, some 0x78, some 0x56, some 0x9A, some 0xF0, some 0xDE, some 0xBC] := by decide

/-! ## Vectors: triple cipher -/

/-- The state of V-BLK-1 and V-BLK-2. -/
def blkState : State :=
  load 0x300 (rising 1 8) (load 0x400 [0x10, 0, 0, 0, 0, 0, 0, 0] (withRegs 0x400 0x500 0x300 0 0))

/-- V-BLK-1. -/
theorem test_blkE : bytesAfter (blkBody (blockEnc toy) blkState) 0x500 8 =
    [some 0xAF, some 0xF8, some 0xCA, some 0xA6, some 0xCE, some 0x75, some 0x05, some 0x35] := by decide

/-- V-BLK-2. -/
theorem test_blkD : bytesAfter (blkBody (blockDec toy) blkState) 0x500 8 =
    [some 0xB8, some 0x9C, some 0x7C, some 0xFB, some 0xFA, some 0xF9, some 0xF8, some 0xF8] := by decide

/-- V-ERR-16: the fault names the command and the first unwritten byte. -/
theorem test_blkE_unwritten : faultOf (exec .blkE (load 0 (rising 0 8) (withRegs 0 0 0xC00 0 0))) =
    some (.unwrittenRead .blkE 0xC00) := by decide

/-- The state of V-TCBC-1 and V-TCBC-3. -/
def tcbcState : State :=
  load 0x300 (rising 0 16) (load 0x400 (rising 0x40 16) (withRegs 0x400 0x500 0x300 0 0x10))

/-- V-TCBC-1. -/
theorem test_tcbcE : bytesAfter (tcbcBody (fun _ k p => tcbcEnc toy k p) tcbcState) 0x500 16 =
    ([0xDE, 0xFA, 0xFA, 0x97, 0xB0, 0x37, 0xD7, 0xE0, 0x74, 0x34, 0x0F, 0x32, 0x77, 0x28, 0xDD, 0xA3] : List Byte).map some := by
  decide

/-- V-TCBC-3. -/
theorem test_tcbcD : bytesAfter (tcbcBody (fun _ k p => tcbcDec toy k p) tcbcState) 0x500 16 =
    ([0xF6, 0x9F, 0x0F, 0x7F, 0x82, 0x9C, 0x04, 0x03, 0xE7, 0x99, 0xEA, 0x5C, 0xF8, 0xCD, 0x55, 0x04] : List Byte).map some := by
  decide

/-- V-TCBC-8 and V-ERR-2: E_LEN, but E_ILLEGAL first. -/
theorem test_tcbcE_errors : statusAfter 0x00000044 (withRegs 0 0 0 0 0xC) = some 0x00000306 ∧
    statusAfter 0x00000144 (withRegs 0 0 0 0 0xC) = some 0x00000106 := by decide

/-! ## Vectors: MAC engine and ACR combiner -/

/-- The state of the MAC vectors, with a salt at AUX. -/
def macState (salt : List Byte) : State :=
  load 0xC00 (rising 0x10 16) (load 0x400 (rising 0x40 16) (load 0x600 salt (withRegs 0x400 0x500 0xC00 0x600 0x10)))

/-- V-MAC-1, and nothing is written behind the MAC. -/
theorem test_macG : bytesAfter (macBody toy .gen false (macState [])) 0x500 9 =
    [some 0x9D, some 0x31, some 0x57, some 0x20, some 0x78, some 0x2B, some 0xDB, some 0xF3, none] := by decide +kernel

/-- V-MAC-5. -/
theorem test_macV : bytesAfter (macBody toy .ver false (macState [])) 0x500 9 =
    [some 0x9D, some 0x31, some 0x57, some 0x20, some 0x78, some 0x2B, some 0xDB, some 0xF3, none] := by decide +kernel

/-- V-MAC-8: the MAC, then the new salt. -/
theorem test_macGS : bytesAfter (macBody toy .gen true (macState [0x7F, 0xFF, 0xFF, 0xFF, 0xFF, 0xFF, 0xFF, 0xFF])) 0x500 16 =
    ([0x90, 0x96, 0x3D, 0xDE, 0x1A, 0x94, 0x6D, 0xCB, 0x80, 0, 0, 0, 0, 0, 0, 0] : List Byte).map some := by decide +kernel

/-- V-MAC-6: the MAC without the salt, then the salt unchanged. -/
theorem test_macVS : bytesAfter (macBody toy .ver true (macState (List.replicate 8 0xFF))) 0x500 16 =
    ([0x9D, 0x31, 0x57, 0x20, 0x78, 0x2B, 0xDB, 0xF3, 0xFF, 0xFF, 0xFF, 0xFF, 0xFF, 0xFF, 0xFF, 0xFF] : List Byte).map some := by
  decide +kernel

/-- V-MAC-11: the salt region is range-checked only with SALT_EN. -/
theorem test_macGS_range : statusAfter 0x000000C5 (withRegs 0x400 0x500 0xC00 0xFF9 0x10) = some 0x00000406 := by decide

/-- The §2 table SBOX. -/
def toySbox : Bytes 256 := ⟨((List.range 256).map (fun i => BitVec.ofNat 8 (7 * i + 3))).toArray, by simp⟩

/-- The §2 table REF. -/
def toyRef : Bytes 128 := ⟨(rising 0 128).toArray, by simp [rising]⟩

/-- V-ACR-1, on the values the command reads. -/
theorem test_acr : (acr toy toySbox toyRef #v[1, 2, 3, 4, 5, 6, 7, 8] #v[0xC0, 0xC1, 0xC2, 0xC3]
      ⟨descriptor1.toArray, by simp [descriptor1, rising]⟩).toList = [0xF2, 0x14, 0x12, 0xB9, 0x9F, 0x89, 0x8B, 0x40] := by
  decide +kernel

/-- V-ACR-6: the table SBOX never written. -/
theorem test_acr_unwritten : faultOf (exec .acr
    (load 0xC00 (rising 1 8) (load 0xC10 (rising 0xC0 4) (load 0xC20 descriptor1 (withRegs 0xC20 0xD00 0xC00 0xC10 0))))) =
    some (.unwrittenRead .acr 0x040) := by decide +kernel

/-! ## Vectors: handshake sequencer -/

/-- The keys and packets 2 and 4 of the fixture of 95_test_vectors.md §3.6, as memory. -/
def fixture : Memory := row 0x000 (rising 0 64) ++ row 0x400
    [0x00, 0x02, 0x00, 0x00, 0x1C, 0x87, 0xEF, 0x3C, 0xE2, 0x7D, 0x33, 0xC5, 0x23, 0x55, 0x3E, 0xF3, 0x81, 0x9F, 0x8C, 0xEB, 0x21,
      0x88, 0x3B, 0x4E, 0x26, 0xD0, 0xB9, 0x39, 0x1F, 0x68, 0xFB, 0xCD, 0x4E, 0x5A] ++ row 0x800
    [0x00, 0x04, 0x00, 0x00, 0x10, 0x0C, 0x27, 0xE2, 0x9D, 0x7D, 0xA9, 0xC0, 0x93, 0xEE, 0xAA, 0x5E, 0xF0, 0x66, 0x58, 0x0D, 0x7D,
      0x77]

/-- The fixture in state `st`. -/
def fixtureIn (st : HsState) : State :=
  { State.reset with dmem := fixture, session := { Session.reset with hsState := st } }

/-- The fixture after T2: the nonce, usb_random and the content hash of V-HS-1. -/
def fixtureAfterT2 : State :=
  { State.reset with
    dmem := fixture
    session := { Session.reset with
      hsState := .responseReceived
      nonce := #v[0xA0, 0xA1, 0xA2, 0xA3, 0xA4, 0xA5, 0xA6, 0xA7, 0xA8, 0xA9, 0xAA, 0xAB, 0xAC, 0xAD, 0xAE, 0xAF]
      usbr := #v[0xB0, 0xB1, 0xB2, 0xB3, 0xB4, 0xB5, 0xB6, 0xB7, 0xB8, 0xB9, 0xBA, 0xBB, 0xBC, 0xBD, 0xBE, 0xBF]
      chash := #v[0x28, 0xF8, 0xBE, 0x0E, 0x8B, 0x39, 0x9F, 0x54, 0xE8, 0xF3, 0xA7, 0xCC, 0x78, 0x4E, 0x08, 0xF8] } }

/-- V-HS-1, the second HSSTEP: NONCE, CERT, RENC and RSENC. -/
theorem test_hsstep_t1 : (sessionAfter (hsstepBody toy (fixtureIn .identified))).map (fun r => (r.1, r.2.take 0x40)) =
    some (0x00000002, rising 0xA0 16 ++ rising 0xC0 8 ++ List.replicate 8 0 ++
      [0xC0, 0x40, 0xA8, 0x50, 0xC1, 0x87, 0xD4, 0x39, 0xED, 0x13, 0x1C, 0x05, 0x26, 0x5B, 0x38, 0x55] ++
      [0x6A, 0x7D, 0xB8, 0xE3, 0x74, 0xC6, 0xDF, 0x8A, 0xA3, 0xB0, 0x99, 0xB0, 0xC9, 0x51, 0x8E, 0xCF]) := by decide +kernel

/-- V-HS-1, the fourth HSSTEP: the interchange, the decrypted block and the updated salt. -/
theorem test_hsstep_t3 : (sessionAfter (hsstepBody toy fixtureAfterT2)).map
      (fun r => (r.1, r.2.take 16, (r.2.drop 0x40).take 16)) =
    some (0x00000004, [0xA0, 0xA1, 0xA2, 0xA3, 0xA4, 0xA5, 0xA6, 0xA8, 0xD0, 0xD1, 0xD2, 0xD3, 0xD4, 0xD5, 0xD6, 0xD7],
      rising 0xB0 12 ++ [0xAC, 0xAD, 0xAE, 0xAF]) := by decide +kernel

/-- V-HS-3 from Identified: HSRUN ends in Failed with MacMismatch at 1, the session writes made before the compare kept. -/
theorem test_hsrun_mac_mismatch :
    (sessionAfter (hsrunBody toy (load 0x421 [0x5B] (load 0x405 [0x86] (fixtureIn .identified))))).map
      (fun r => (r.1, r.2.take 24)) =
    some (0x00000127, [0xE5, 0x07, 0xBA, 0xA3, 0xA4, 0xA5, 0xA6, 0xA7, 0xA9, 0xA9, 0xAA, 0xAB, 0xAC, 0xAD, 0xAE, 0xAF] ++
      rising 0xC0 8) := by decide +kernel

/-- V-HS-6 from ResponseReceived: the checksum of packet 4 is wrong and the interchange stays committed. V-ERR-6, V-ERR-7: E_STATE
in Complete and in Failed. -/
theorem test_hsrun_checksum_mismatch_and_terminal : (sessionAfter (hsrunBody toy (load 0x815 [0x88] fixtureAfterT2))).map
      (fun r => (r.1, r.2.take 16, (r.2.drop 0x40).take 16)) =
    some (0x00000317, rising 0xA0 12 ++ [0xBC, 0xBD, 0xBE, 0xBF], rising 0xB0 12 ++ [0xAC, 0xAD, 0xAE, 0xAF]) ∧
    statusAfter 0x00000008 { State.reset with session := { Session.reset with hsState := .complete } } = some 0x00000206 ∧
    statusAfter 0x00000009 { State.reset with session := { Session.reset with hsState := .failed } } = some 0x00000206 := by
  decide +kernel

/-- A session after a failure of T1. -/
def failedSession : Session where
  nonce := #v[1, 2, 3, 4, 5, 6, 7, 8, 9, 10, 11, 12, 13, 14, 15, 16]
  cert := zeros 8
  expacr := zeros 8
  renc := zeros 16
  rsenc := zeros 16
  usbr := zeros 16
  chash := zeros 16
  desc := zeros 32
  hsState := .failed
  failKind := .macMismatch
  failAt := .identified

/-- V-ERR-8: HSRST after a failure zeroes the session and completes with STATUS = 0x002. -/
theorem test_hsrst :
    sessionAfter (hsrstBody { State.reset with session := failedSession }) =
      some (0x00000000, List.replicate 128 0x00) ∧
    statusAfter 0x00000007 State.reset = some 0x00000002 := by decide +kernel

/-! ## Vectors: the bus -/

/-- STATUS and what the last read returned, after a list of transactions. -/
def busAfter (ops : List BusOp) (s : State) : Word × ReadData :=
  let t := ops.foldl (fun s op => busStep op s) s
  (statusWord t.status, t.readData)

/-- V-ERR-9, V-ERR-10: accesses of the wrong width or alignment. -/
theorem test_bus_berr : busAfter [.read32 0x0000] State.reset = (0x00000020, .word 0) ∧
    busAfter [.write8 0x1004 0xFF] State.reset = (0x00000020, .none) ∧
    busAfter [.read32 0x1002] State.reset = (0x00000020, .word 0) := by decide +kernel

/-- V-ERR-11: with STATUS = 0x00A, writing 0x2 clears DONE and keeps RESULT. -/
theorem test_bus_status_clear :
    busAfter [.write32 0x1004 0x00000002]
      { State.reset with status := { Status.reset with done := true, result := true } } = (0x00000008, .none) := by decide +kernel

/-- V-ERR-13 and V-ERR-14: while BUSY = 1 a DMEM write and a second CMD write are dropped with OVR. A 32-bit read of DMEM then meets
R61 and R76 of 20_memory.md at once: BERR and OVR. An 8-bit read of SRC meets R61 alone. -/
theorem test_bus_busy :
    (busStep (.write8 0xC00 0x55) (busStep (.write32 0x1000 0x00000044) State.reset)).dmem = [] ∧
    busAfter [.write32 0x1000 0x00000044, .write8 0xC00 0x55] State.reset = (0x00000011, .none) ∧
    busAfter [.write32 0x1000 0x00000044, .read32 0x0000] State.reset = (0x00000031, .word 0) ∧
    busAfter [.write32 0x1000 0x00000044, .read8 0x100C] State.reset = (0x00000021, .byte 0) ∧
    (busStep (.write32 0x1000 0x00000008) (busStep (.write32 0x1000 0x00000007) State.reset)).latch = 0x00000007 := by decide +kernel

/-- V-ERR-13: both orders of the host's write and the engine's turn are schedules of the model. The engine first: the write lands. -/
theorem test_schedule_engine_first :
    (match Host.Core.run Sys2Proof.core 2
        { State.reset with status := acceptFlags Status.reset, latch := 0x00000007, schedule := [.engine, .bus (.write8 0xC00 0x55)] }
      with
      | .next t => some (t.dmem, statusWord t.status)
      | _ => none) = some ([(0xC00, 0x55)], 0x00000002) := by decide +kernel

/-- V-ERR-15: a soft reset abandons the pending command and keeps DMEM. -/
theorem test_bus_soft_reset :
    (busStep (.write32 0x1008 0x00000002) (busStep (.write32 0x1000 0x00000009) (load 0x10 [0x5A] State.reset))) =
      load 0x10 [0x5A] State.reset := by decide +kernel

/-- V-ERR-17 and V-ERR-18: a window write and a reserved read set no flag. -/
theorem test_bus_window_and_reserved : busAfter [.write8 0x1100 0x77, .read8 0x1100] State.reset = (0x00000000, .byte 0x00) ∧
    busAfter [.read8 0x1040] State.reset = (0x00000000, .byte 0x00) := by decide +kernel

/-- V-ERR-12: the level interrupt. -/
theorem test_irq : irq { State.reset with ie := true, status := { Status.reset with done := true } } = true ∧
    irq (busStep (.write32 0x1004 0x2) { State.reset with ie := true, status := { Status.reset with done := true } }) = false := by
  decide +kernel

/-! ## Witnesses: for each obligation with hypotheses, concrete values that meet them, at the ends of their ranges -/

/-- `n` bytes of zeros from address 0 on. -/
@[irreducible] def zeroFill (n : Nat) : Memory := memWriteList [] 0 (List.replicate n 0)

theorem zeroFill_get (n x : Nat) (h : x < n) : memGet? (zeroFill n) x = some 0 := by
  rw [zeroFill, memGet?_memWriteList, dif_pos (by simpa using h)]
  simp

/-- A fully written DMEM of zeros. -/
def zeroMem : Memory := zeroFill 4096

theorem zeroMem_get (x : Nat) (h : x < 4096) : memGet? zeroMem x = some 0 := zeroFill_get 4096 x h

theorem zeroMem_written (a n : Nat) (h : a + n ≤ 4096) : Written zeroMem a n := fun i hi => by
  rw [zeroMem_get _ (by omega)]; rfl

theorem zeroMem_read (a n : Nat) (h : a + n ≤ 4096) : memRead zeroMem a n = .ok (zeros n) :=
  memRead_eq_ok.mpr fun i hi => by rw [zeroMem_get _ (by omega)]; simp [zeros]

theorem zeroMem_blocks (a n : Nat) (h : a + 8 * n ≤ 4096) :
    memReadBlocks zeroMem a n = .ok (Vector.replicate n (zeros 8)) :=
  memReadBlocks_eq_ok.mpr fun i hi => by rw [zeroMem_read _ _ (by omega)]; simp

/-- Reset, with the DMEM of zeros. -/
def zeroState : State := { State.reset with dmem := zeroMem }

/-- The DMEM of zeros with the operand registers set. -/
def zeroRegs (src dst key aux len : Nat) : State := { withRegs src dst key aux len with dmem := zeroMem }

/-- Reset with command word `w` accepted. -/
def pending (w : Word) : State := acceptCommand w State.reset

/-- A packet of zeros passes; with the checksum byte 1 it fails. -/
theorem zeroMem_packet (a : Nat) (h : a + 6 ≤ 4096) :
    PacketIs zeroMem a 0 (zeros _) 0 ∧ PacketIs (memSet zeroMem (a + 5) 1) a 0 (zeros _) 1 := by
  refine ⟨⟨zeroMem_get _ (by omega), zeroMem_read _ _ (by simpa using by omega), zeroMem_get _ (by simpa using by omega)⟩, ?_, rfl, ?_⟩
  · rw [memGet?_memSet, if_neg (by omega), zeroMem_get _ (by omega)]
  · rw [memGet?_memSet, if_pos (by simp)]

/-- A byte string other than `x`. -/
def differ {n : Nat} (x : Bytes n) : Bytes n := if x = zeros n then Vector.replicate n 1 else zeros n

theorem differ_ne4 (x : Bytes 4) : x ≠ differ x := by
  unfold differ; split
  · next h => rw [h]; decide
  · next h => exact h

theorem differ_ne8 (x : Bytes 8) : x ≠ differ x := by
  unfold differ; split
  · next h => rw [h]; decide
  · next h => exact h

theorem differ_ne16 (x : Bytes 16) : differ x ≠ x := by
  unfold differ; split
  · next h => rw [h]; decide
  · next h => exact fun e => h e.symm

theorem witness_IllegalWordsRaiseError :
    (pending 0x00000000).status.busy = true ∧
    (∀ i, decode 0x00000100 ≠ .ok i) ∧ (∀ i, decode 0x00000000 ≠ .ok i) ∧ (∀ i, decode 0x0000000A ≠ .ok i) ∧
    (∀ i, decode 0x0000003F ≠ .ok i) ∧ (∀ i, decode 0x00000041 ≠ .ok i) ∧ (∀ i, decode 0x00000084 ≠ .ok i) :=
  ⟨rfl, fun i => by cases i <;> decide, fun i => by cases i <;> decide, fun i => by cases i <;> decide,
    fun i => by cases i <;> decide, fun i => by cases i <;> decide, fun i => by cases i <;> decide⟩

theorem witness_StepRunsDecodedCommand :
    (pending 0x00000007).status.busy = true ∧ decode (pending 0x00000007).latch = .ok .hsrst ∧
    (pending 0x00000007).schedule = [] ∧ (withSchedule [.engine] (pending 0x00000007)).schedule = [.engine] :=
  ⟨rfl, by decide, rfl, rfl⟩

theorem witness_StepTakesNextEvent :
    (withSchedule [.bus (.read8 0)] State.reset).schedule = .bus (.read8 0) :: [] ∧
    (withSchedule [.hardReset] State.reset).schedule = .hardReset :: [] ∧
    (withSchedule [.engine] State.reset).schedule = .engine :: [] ∧ State.reset.schedule = [] ∧
    State.reset.status.busy = false := ⟨rfl, rfl, rfl, rfl, rfl⟩

/-- One command that completes, one that errs. -/
theorem witness_EngineStepCompletes :
    (statusInv (pending 0x00000007).status ∧ (pending 0x00000007).status.busy = true ∧
      ∃ t, engineStep (pending 0x00000007) = .next t ∧ t.status.err = false) ∧
    (statusInv (pending 0x00000000).status ∧ (pending 0x00000000).status.busy = true ∧
      ∃ t, engineStep (pending 0x00000000) = .next t ∧ t.status.err = true) :=
  ⟨⟨by unfold statusInv; decide, rfl, _, rfl, rfl⟩, ⟨by unfold statusInv; decide, rfl, _, rfl, rfl⟩⟩

theorem witness_CommandErrorChangesOnlyReport :
    (pending 0x00000000).status.busy = true ∧ (pending 0x00000000).status.err = false ∧
      ∃ t, engineStep (pending 0x00000000) = .next t ∧ t.status.err = true := ⟨rfl, rfl, _, rfl, rfl⟩

theorem witness_LengthErrors : (readsLen .tcbcE = true ∧ (withRegs 0 0 0 0 1).len.toNat % 8 ≠ 0) ∧
    (readsLen .macVS = true ∧ (withRegs 0 0 0 0 0x1FFF).len.toNat % 8 ≠ 0) := by decide

/-- A region one byte too long, and CKSUM's second region one byte too long. -/
theorem witness_RangeErrors :
    ((readsLen .blkE = true → (withRegs 0 0xFF9 0 0 0).len.toNat % 8 = 0) ∧
      ∃ r ∈ operandRegions .blkE (withRegs 0 0xFF9 0 0 0), 4096 < r.1 + r.2) ∧
    ((load 0xFFF [0] (withRegs 0xFFB 0 0 0 0)).src.toNat + 5 ≤ 4096 ∧
      memGet? (load 0xFFF [0] (withRegs 0xFFB 0 0 0 0)).dmem ((load 0xFFF [0] (withRegs 0xFFB 0 0 0 0)).src.toNat + 4) = some 0 ∧
      4096 < (load 0xFFF [0] (withRegs 0xFFB 0 0 0 0)).src.toNat + 6 + (0 : Byte).toNat) := by decide

/-- In both terminal states a command other than HSRST gives a next state. -/
theorem witness_TerminalStatesAreFinal :
    (fixtureIn .complete).session.hsState = .complete ∧ (fixtureIn .failed).session.hsState = .failed ∧
    (∃ t, exec .blkE (fixtureIn .complete) = .next t) ∧ (∃ t, exec .blkE (fixtureIn .failed) = .next t) ∧
    isSoftReset (.write32 0x1008 1) = false := ⟨rfl, rfl, ⟨_, rfl⟩, ⟨_, rfl⟩, by decide⟩

/-- Reset, with packet 1 right and of no body; the bytes after it are unwritten. -/
def shortPacket1 : State := { State.reset with dmem := [(0x204, 0), (0x205, 0)] }

/-- The sessions of HSSTEPs from `s`, one after the other. -/
def hsstepSessions (s : State) : Nat → Session
  | 0 => s.session
  | j + 1 =>
    match exec .hsstep { s with session := hsstepSessions s j } with
    | .next u => u.session
    | _ => hsstepSessions s j

/-- `shortPacket1` with the fields of T0 written, so that T0 passes. -/
def loadedPacket1 : State := load 0x205 (List.replicate 23 0) shortPacket1

/-- A fault; the last byte that NORM reads, and one that T0 reads after a right checksum; CKSUM's second region at the end of DMEM;
a byte that T1 reads in HSRUN's run from Init, and the fault of that run. -/
theorem witness_CommandsStopOnlyOnUnwrittenBytes :
    exec .norm State.reset = .fault (.unwrittenRead .norm 5) ∧
    ((∀ r ∈ operandRegions .norm (withRegs 0xFE4 0xFE0 0 0 0), r.1 + r.2 ≤ 4096) ∧
      CommandReads .norm (withRegs 0xFE4 0xFE0 0 0 0) 0xFFF ∧ memGet? (withRegs 0xFE4 0xFE0 0 0 0).dmem 0xFFF = none) ∧
    (CommandReads .hsstep shortPacket1 0x21B ∧ memGet? shortPacket1.dmem 0x21B = none) ∧
    (CommandReads .cksum (load 0xFFE [0] (withRegs 0xFFA 0 0 0 0)) 0xFFF ∧
      memGet? (load 0xFFE [0] (withRegs 0xFFA 0 0 0 0)).dmem 0xFFF = none) ∧
    (CommandReads .hsrun loadedPacket1 0x404 ∧ memGet? loadedPacket1.dmem 0x404 = none) ∧
    (∃ u, exec .hsstep loadedPacket1 = .next u ∧ ∃ f, exec .hsrun u = .fault f) :=
  ⟨rfl, ⟨by decide, ⟨by decide, by decide⟩, rfl⟩,
    ⟨.inr ⟨⟨0, #v[], 0, ⟨rfl, rfl, rfl⟩, rfl⟩, by decide, by decide⟩, rfl⟩,
    ⟨.inr ⟨0, rfl, by decide, by decide, by decide⟩, rfl⟩,
    ⟨⟨1, hsstepSessions loadedPacket1, ⟨rfl, fun j hj => by
      obtain rfl : j = 0 := by omega
      exact ⟨by decide, by decide, _, rfl, rfl⟩⟩, .inl (.inl rfl)⟩, rfl⟩, _, rfl, _, rfl⟩

/-- The first and the last byte of the key and of the block. -/
theorem witness_BlkFaultsOnUnwrittenByte :
    (Written (load 0 [] State.reset).dmem 0 0 ∧ memGet? (load 0 [] State.reset).dmem (0 + 0) = none) ∧
    (Written (load 0 (rising 1 7) State.reset).dmem 0 7 ∧ memGet? (load 0 (rising 1 7) State.reset).dmem (0 + 7) = none) ∧
    (Written (load 0 (rising 1 8) State.reset).dmem 0 8 ∧ Written (load 0 (rising 1 8) (withRegs 0x10 0 0 0 0)).dmem 0x10 0 ∧
      memGet? (load 0 (rising 1 8) (withRegs 0x10 0 0 0 0)).dmem (0x10 + 0) = none) ∧
    (Written (load 0 (rising 1 8) (load 0xFF8 (rising 1 7) (withRegs 0xFF8 0 0 0 0))).dmem 0 8 ∧
      Written (load 0 (rising 1 8) (load 0xFF8 (rising 1 7) (withRegs 0xFF8 0 0 0 0))).dmem 0xFF8 7 ∧
      memGet? (load 0 (rising 1 8) (load 0xFF8 (rising 1 7) (withRegs 0xFF8 0 0 0 0))).dmem (0xFF8 + 7) = none) := by
  unfold Written; decide

theorem zeroMem_packetLoaded (a n : Nat) (h : a + 6 ≤ 4096) (hn : a + 5 + (n - 5) ≤ 4096) : PacketLoaded zeroMem a n :=
  ⟨zeroMem_written _ _ (by omega), fun l hl => by
    obtain rfl : (0 : Byte) = l := by simpa [zeroMem_get (a + 4) (by omega)] using hl
    exact zeroMem_written _ _ h, zeroMem_written _ _ hn⟩

theorem zeroMem_transitionLoaded (st : HsState) : TransitionLoaded zeroMem st := by
  cases st <;> simp only [TransitionLoaded] <;>
    first
      | trivial
      | exact zeroMem_written _ _ (by omega)
      | exact zeroMem_packetLoaded _ _ (by omega) (by omega)
      | exact ⟨zeroMem_written _ _ (by omega), zeroMem_packetLoaded _ _ (by omega) (by omega)⟩

/-- Every command, with every region at the end of DMEM or LEN at its largest. -/
theorem witness_LoadedCommandsComplete :
    (∀ i, LoadedFor i zeroState) ∧ LoadedFor .tcbcE (zeroRegs 0 0 0xFF0 0 0x1000) ∧ LoadedFor .blkE (zeroRegs 0xFF8 0xFF8 0xFF8 0 0) := by
  refine ⟨fun i => ?_, ⟨zeroMem_written _ _ (by decide), zeroMem_written _ _ (by decide)⟩,
    ⟨zeroMem_written _ _ (by decide), zeroMem_written _ _ (by decide)⟩⟩
  cases i <;> simp only [LoadedFor] <;>
    first
      | trivial
      | exact zeroMem_transitionLoaded _
      | exact fun st => zeroMem_transitionLoaded st
      | exact zeroMem_written _ _ (by decide)
      | exact ⟨zeroMem_written _ _ (by decide), zeroMem_written _ _ (by decide)⟩
      | exact ⟨zeroMem_written _ _ (by decide), zeroMem_written _ _ (by decide), zeroMem_written _ _ (by decide)⟩
      | exact ⟨zeroMem_written _ _ (by decide), zeroMem_written _ _ (by decide), zeroMem_written _ _ (by decide),
          zeroMem_written _ _ (by decide)⟩
      | exact ⟨zeroMem_written _ _ (by decide), fun l hl => by
          obtain rfl : (0 : Byte) = l := by simpa [zeroState, State.reset, zeroMem_get 4 (by omega)] using hl
          exact zeroMem_written _ _ (by decide)⟩

theorem witness_CommandsKeepRegisters :
    (∃ t, exec .blkE blkState = .next t) ∧ (Instr.blkE ≠ .cksum ∧ Instr.blkE ≠ .hsstep ∧ Instr.blkE ≠ .hsrun) :=
  ⟨⟨_, rfl⟩, by decide⟩

/-- The bytes just before and just after the output region. -/
theorem witness_CommandsWriteOnlyOutputRegion : (∃ t, exec .blkE blkState = .next t) ∧
    0x4FF < (outputRegion .blkE blkState).1 ∧ (outputRegion .blkE blkState).1 + (outputRegion .blkE blkState).2 ≤ 0x508 :=
  ⟨⟨_, rfl⟩, by decide⟩

theorem witness_SessionIsWrittenOnlyByHandshake :
    (Instr.blkE ≠ .hsrst ∧ Instr.blkE ≠ .hsstep ∧ Instr.blkE ≠ .hsrun) ∧ (∃ t, exec .blkE blkState = .next t) ∧
    ((∀ i, decode (pending 0x0000000A).latch ≠ .ok i) ∧ ∃ t, engineStep (pending 0x0000000A) = .next t) ∧
    isSoftReset (.write8 0x1100 0x77) = false :=
  ⟨by decide, ⟨_, rfl⟩, ⟨fun i => by cases i <;> decide, _, rfl⟩, by decide⟩

/-- The packet of V-CK-1 at the end of DMEM. -/
def packetAtEnd : State := load 0xFF7 [0x00, 0x01, 0x00, 0x00, 0x03, 0x11, 0x22, 0x44, 0x77] (withRegs 0xFF7 0 0 0 0)

theorem witness_XorFoldAndPacketOk : PacketIs packetAtEnd.dmem 0xFF7 3 (#v[0x11, 0x22, 0x44] : Bytes 3) 0x77 := ⟨rfl, rfl, rfl⟩

theorem witness_CksumComputesResult : packetAtEnd.src.toNat + 6 + (3 : Byte).toNat ≤ 4096 ∧
    PacketIs packetAtEnd.dmem packetAtEnd.src.toNat 3 (#v[0x11, 0x22, 0x44] : Bytes 3) 0x77 := ⟨by decide, rfl, rfl, rfl⟩

/-- The first body byte and the checksum byte. -/
theorem witness_CksumDetectsSingleByteChange : packetAtEnd.status.result = false ∧
    (∃ t, exec .cksum packetAtEnd = .next t ∧ t.status.result = true) ∧
    memGet? packetAtEnd.dmem (packetAtEnd.src.toNat + 4) = some 3 ∧
    (0 ≤ (3 : Byte).toNat ∧ memGet? packetAtEnd.dmem (packetAtEnd.src.toNat + 5 + 0) = some 0x11) ∧
    (3 ≤ (3 : Byte).toNat ∧ memGet? packetAtEnd.dmem (packetAtEnd.src.toNat + 5 + 3) = some 0x77) ∧ (1 : Byte) ≠ 0 :=
  ⟨rfl, ⟨_, rfl, by decide⟩, by decide⟩

theorem witness_NormStoresDescriptor : (zeroRegs 0xFE4 0xFE0 0 0 0).src.toNat + 28 ≤ 4096 ∧
    (zeroRegs 0xFE4 0xFE0 0 0 0).dst.toNat + 32 ≤ 4096 ∧
    memRead (zeroRegs 0xFE4 0xFE0 0 0 0).dmem ((zeroRegs 0xFE4 0xFE0 0 0 0).src.toNat + 5) 23 = .ok (zeros 23) :=
  ⟨by decide, by decide, zeroMem_read _ _ (by decide)⟩

theorem witness_BlkStoresOneBlock : (zeroRegs 0xFF8 0xFF8 0xFF8 0 0).src.toNat + 8 ≤ 4096 ∧
    (zeroRegs 0xFF8 0xFF8 0xFF8 0 0).key.toNat + 8 ≤ 4096 ∧ (zeroRegs 0xFF8 0xFF8 0xFF8 0 0).dst.toNat + 8 ≤ 4096 ∧
    memRead (zeroRegs 0xFF8 0xFF8 0xFF8 0 0).dmem (zeroRegs 0xFF8 0xFF8 0xFF8 0 0).key.toNat 8 = .ok (zeros 8) ∧
    memRead (zeroRegs 0xFF8 0xFF8 0xFF8 0 0).dmem (zeroRegs 0xFF8 0xFF8 0xFF8 0 0).src.toNat 8 = .ok (zeros 8) :=
  ⟨by decide, by decide, by decide, zeroMem_read _ _ (by decide), zeroMem_read _ _ (by decide)⟩

/-- `blkState` with BLK.E pending; the output at 0x500, or right after the key, which is at 0x300. -/
def blkPending (dst : DmemAddr) : State := { blkState with dst := dst, status := acceptFlags Status.reset, latch := 0x00000043 }

theorem witness_BlkDecryptsWhatBlkEncrypted :
    ((blkPending 0x308).status.busy = true ∧ statusInv (blkPending 0x308).status ∧
      memRead (blkPending 0x308).dmem (blkPending 0x308).key.toNat 8 = .ok #v[1, 2, 3, 4, 5, 6, 7, 8] ∧
      memRead (blkPending 0x308).dmem (blkPending 0x308).src.toNat 8 = .ok #v[0x10, 0, 0, 0, 0, 0, 0, 0] ∧
      (blkPending 0x308).key.toNat + 8 ≤ (blkPending 0x308).dst.toNat ∧ (0xFF8 : DmemAddr).toNat + 8 ≤ 4096 ∧
      ∃ t, exec .blkE (blkPending 0x308) = .next t ∧ t.status.err = false) ∧
    (blkPending 0x2F8).dst.toNat + 8 ≤ (blkPending 0x2F8).key.toNat :=
  ⟨⟨rfl, by unfold statusInv; decide, rfl, rfl, by decide, by decide, _, rfl, rfl⟩, by decide⟩

/-- The hypotheses of the two TCBC statements at `n` blocks of the DMEM of zeros, with the key at its end. -/
def TcbcHyps (n : Nat) (s : State) : Prop :=
  s.len.toNat = 8 * n ∧ s.src.toNat + 8 * n ≤ 4096 ∧ s.key.toNat + 16 ≤ 4096 ∧ s.dst.toNat + 8 * n ≤ 4096 ∧
  memRead s.dmem s.key.toNat 16 = .ok (zeros 16) ∧ memReadBlocks s.dmem s.src.toNat n = .ok (Vector.replicate n (zeros 8))

/-- No block, and all of DMEM. -/
theorem witness_TcbcEncryptStoresChain : TcbcHyps 0 (zeroRegs 0 0 0xFF0 0 0) ∧ TcbcHyps 512 (zeroRegs 0 0 0xFF0 0 0x1000) :=
  ⟨⟨rfl, by decide, by decide, by decide, zeroMem_read _ _ (by decide), zeroMem_blocks _ _ (by decide)⟩,
    ⟨rfl, by decide, by decide, by decide, zeroMem_read _ _ (by decide), zeroMem_blocks _ _ (by decide)⟩⟩

theorem witness_TcbcDecryptStoresChain : TcbcHyps 0 (zeroRegs 0 0 0xFF0 0 0) ∧ TcbcHyps 512 (zeroRegs 0 0 0xFF0 0 0x1000) :=
  witness_TcbcEncryptStoresChain

/-- Strings that agree up to block 0 only, and strings that differ before block 1 only. -/
theorem witness_TcbcRoundTrip :
    (∀ j (_ : j ≤ 0), (#v[zeros 8, zeros 8] : Vector Block 2)[j] = (#v[zeros 8, tob8 1] : Vector Block 2)[j]) ∧
    ((#v[zeros 8, tob8 2, tob8 3] : Vector Block 3)[2] = (#v[tob8 1, tob8 2, tob8 3] : Vector Block 3)[2] ∧
      (0 < 2 → (#v[zeros 8, tob8 2, tob8 3] : Vector Block 3)[2 - 1] = (#v[tob8 1, tob8 2, tob8 3] : Vector Block 3)[2 - 1])) :=
  ⟨fun j h => by obtain rfl : j = 0 := by omega
                 rfl, rfl, fun _ => rfl⟩

theorem witness_EqualHalvesGiveSingleKeyCbc :
    lo8 #v[1, 2, 3, 4, 5, 6, 7, 8, 1, 2, 3, 4, 5, 6, 7, 8] = hi8 #v[1, 2, 3, 4, 5, 6, 7, 8, 1, 2, 3, 4, 5, 6, 7, 8] := by decide

/-- Output right after the key, and right before it. -/
theorem witness_TcbcCommandsRoundTrip :
    (TcbcHyps 1 (zeroRegs 0xFF8 0x310 0x300 0 8) ∧
      (zeroRegs 0xFF8 0x310 0x300 0 8).key.toNat + 16 ≤ (zeroRegs 0xFF8 0x310 0x300 0 8).dst.toNat) ∧
    (TcbcHyps 1 (zeroRegs 0xFF8 0x2F8 0x300 0 8) ∧
      (zeroRegs 0xFF8 0x2F8 0x300 0 8).dst.toNat + 8 * 1 ≤ (zeroRegs 0xFF8 0x2F8 0x300 0 8).key.toNat) ∧
    (0xFF8 : DmemAddr).toNat + 8 * 1 ≤ 4096 :=
  ⟨⟨⟨rfl, by decide, by decide, by decide, zeroMem_read _ _ (by decide), zeroMem_blocks _ _ (by decide)⟩, by decide⟩,
    ⟨⟨rfl, by decide, by decide, by decide, zeroMem_read _ _ (by decide), zeroMem_blocks _ _ (by decide)⟩, by decide⟩, by decide⟩

/-- The hypotheses of the MAC statements at `n` blocks of the DMEM of zeros. -/
def MacHyps (n : Nat) (s : State) : Prop :=
  s.len.toNat = 8 * n ∧ s.src.toNat + 8 * n ≤ 4096 ∧ s.key.toNat + 16 ≤ 4096 ∧ s.aux.toNat + 8 ≤ 4096 ∧ s.dst.toNat + 16 ≤ 4096 ∧
  memRead s.dmem s.key.toNat 16 = .ok (zeros 16) ∧ memReadBlocks s.dmem s.src.toNat n = .ok (Vector.replicate n (zeros 8)) ∧
  memRead s.dmem s.aux.toNat 8 = .ok (zeros 8)

/-- No block, and all of DMEM. -/
theorem witness_MacGenerateWithSalt :
    MacHyps 0 (zeroRegs 0 0xFF0 0xFF0 0xFF8 0) ∧ MacHyps 512 (zeroRegs 0 0xFF0 0xFF0 0xFF8 0x1000) :=
  ⟨⟨rfl, by decide, by decide, by decide, by decide, zeroMem_read _ _ (by decide), zeroMem_blocks _ _ (by decide),
      zeroMem_read _ _ (by decide)⟩,
    ⟨rfl, by decide, by decide, by decide, by decide, zeroMem_read _ _ (by decide), zeroMem_blocks _ _ (by decide),
      zeroMem_read _ _ (by decide)⟩⟩

theorem witness_MacVerifyWithSalt :
    MacHyps 0 (zeroRegs 0 0xFF0 0xFF0 0xFF8 0) ∧ MacHyps 512 (zeroRegs 0 0xFF0 0xFF0 0xFF8 0x1000) := witness_MacGenerateWithSalt

theorem witness_UnsaltedMacsStoreMac :
    (zeroRegs 0xFF0 0xFF8 0xFF0 0 16).len.toNat = 8 * 2 ∧ (zeroRegs 0xFF0 0xFF8 0xFF0 0 16).src.toNat + 8 * 2 ≤ 4096 ∧
    (zeroRegs 0xFF0 0xFF8 0xFF0 0 16).key.toNat + 16 ≤ 4096 ∧ (zeroRegs 0xFF0 0xFF8 0xFF0 0 16).dst.toNat + 8 ≤ 4096 ∧
    memRead (zeroRegs 0xFF0 0xFF8 0xFF0 0 16).dmem (zeroRegs 0xFF0 0xFF8 0xFF0 0 16).key.toNat 16 = .ok (zeros 16) ∧
    memReadBlocks (zeroRegs 0xFF0 0xFF8 0xFF0 0 16).dmem (zeroRegs 0xFF0 0xFF8 0xFF0 0 16).src.toNat 2 =
      .ok (Vector.replicate 2 (zeros 8)) :=
  ⟨rfl, by decide, by decide, by decide, zeroMem_read _ _ (by decide), zeroMem_blocks _ _ (by decide)⟩

theorem witness_AcrStoresResponse :
    (zeroRegs 0xFE0 0xFF8 0xFF8 0xFFC 0).src.toNat + 32 ≤ 4096 ∧ (zeroRegs 0xFE0 0xFF8 0xFF8 0xFFC 0).key.toNat + 8 ≤ 4096 ∧
    (zeroRegs 0xFE0 0xFF8 0xFF8 0xFFC 0).aux.toNat + 4 ≤ 4096 ∧ (zeroRegs 0xFE0 0xFF8 0xFF8 0xFFC 0).dst.toNat + 8 ≤ 4096 ∧
    memRead (zeroRegs 0xFE0 0xFF8 0xFF8 0xFFC 0).dmem (zeroRegs 0xFE0 0xFF8 0xFF8 0xFFC 0).src.toNat 32 = .ok (zeros 32) ∧
    memRead (zeroRegs 0xFE0 0xFF8 0xFF8 0xFFC 0).dmem (zeroRegs 0xFE0 0xFF8 0xFF8 0xFFC 0).key.toNat 8 = .ok (zeros 8) ∧
    memRead (zeroRegs 0xFE0 0xFF8 0xFF8 0xFFC 0).dmem (zeroRegs 0xFE0 0xFF8 0xFF8 0xFFC 0).aux.toNat 4 = .ok (zeros 4) ∧
    memRead (zeroRegs 0xFE0 0xFF8 0xFF8 0xFFC 0).dmem 0x040 256 = .ok (zeros 256) ∧
    memRead (zeroRegs 0xFE0 0xFF8 0xFF8 0xFFC 0).dmem 0x140 128 = .ok (zeros 128) :=
  ⟨by decide, by decide, by decide, by decide, zeroMem_read _ _ (by decide), zeroMem_read _ _ (by decide),
    zeroMem_read _ _ (by decide), zeroMem_read _ _ (by decide), zeroMem_read _ _ (by decide)⟩

/-- A session that is all zero but for HS_STATE. -/
def zeroSession (st : HsState) : Session := { Session.reset with hsState := st }

/-- The two kinds of packet; the session and the DMEM stand for the state that holds them. -/
theorem witness_TransitionFromInit :
    (zeroSession .init).hsState = .init ∧
    (PacketIs (memSet zeroMem 0x205 1) 0x200 0 (zeros _) 1 ∧ xorFold (zeros (0 : Byte).toNat).toList ≠ 1) ∧
    (PacketIs zeroMem 0x200 0 (zeros _) 0 ∧ xorFold (zeros (0 : Byte).toNat).toList = 0 ∧
      memRead zeroMem 0x205 23 = .ok (zeros 23)) :=
  ⟨rfl, ⟨(zeroMem_packet 0x200 (by decide)).2, by decide⟩, (zeroMem_packet 0x200 (by decide)).1, by decide,
    zeroMem_read _ _ (by decide)⟩

/-- The 4 MAC bytes of packet 2 when all of DMEM is zero. -/
def zeroMac4 : Bytes 4 :=
  match Config.params.mac4Sel with
  | .low => slice (macEnd (zeros 16) (macStep (zeros 16) (macStep (zeros 16) (macStep (zeros 16) (zeros 8) (zeros 8)) (zeros 8)) (zeros 8))) 4 4
  | .high => slice (macEnd (zeros 16) (macStep (zeros 16) (macStep (zeros 16) (macStep (zeros 16) (zeros 8) (zeros 8)) (zeros 8)) (zeros 8))) 0 4

/-- DMEM of zeros with the MAC field of packet 2. -/
def withField2 (f : Bytes 4) : Memory := memWrite zeroMem 0x41D f

/-- What T1 reads when the MAC field of packet 2 is `f`. -/
def T1Reads (f : Bytes 4) : Prop :=
    PacketIs (withField2 f) 0x400 0 (zeros _) 0 ∧ memReadBlocks (withField2 f) 0x405 3 = .ok #v[zeros 8, zeros 8, zeros 8] ∧
    memRead (withField2 f) 0x000 16 = .ok (zeros 16) ∧ memRead (withField2 f) 0x010 16 = .ok (zeros 16) ∧
    memRead (withField2 f) 0x020 16 = .ok (zeros 16) ∧ memRead (withField2 f) 0x030 16 = .ok (zeros 16) ∧
    memRead (withField2 f) 0x41D 4 = .ok f

theorem withField2_reads (f : Bytes 4) : T1Reads f := by
  have hr : ∀ a n, a + n ≤ 0x41D → memRead (withField2 f) a n = .ok (zeros n) := fun a n h => by
    rw [withField2, memRead_memWrite_other _ _ _ _ (.inl h), zeroMem_read _ _ (by omega)]
  have hg : ∀ x, x < 0x41D → memGet? (withField2 f) x = some 0 := fun x h => by
    rw [withField2, memGet?_memWrite, dif_neg (by omega), zeroMem_get _ (by omega)]
  refine ⟨⟨hg _ (by decide), hr _ _ (by decide), hg _ (by decide)⟩, memReadBlocks_eq_ok.mpr fun i hi => ?_, hr _ _ (by decide),
    hr _ _ (by decide), hr _ _ (by decide), hr _ _ (by decide), memRead_memWrite _ _ _⟩
  rw [hr _ _ (by omega)]
  match i, hi with
  | 0, _ => rfl
  | 1, _ => rfl
  | 2, _ => rfl

/-- A wrong checksum; then a right one with the MAC field that differs and with the one that agrees. -/
theorem witness_TransitionFromIdentified :
    (zeroSession .identified).hsState = .identified ∧
    (PacketIs (memSet zeroMem 0x405 1) 0x400 0 (zeros _) 1 ∧ xorFold (zeros (0 : Byte).toNat).toList ≠ 1) ∧
    xorFold (zeros (0 : Byte).toNat).toList = 0 ∧
    (T1Reads (differ zeroMac4) ∧ zeroMac4 ≠ differ zeroMac4) ∧
    T1Reads zeroMac4 :=
  ⟨rfl, ⟨(zeroMem_packet 0x400 (by decide)).2, by decide⟩, by decide, ⟨withField2_reads _, differ_ne4 _⟩, withField2_reads _⟩

/-- The last two decrypted blocks of packet 3 when all is zero. -/
def zeroNonce : Bytes 16 := cat16 (xorBytes (dec3 (zeros 16) (zeros 8)) (zeros 8)) (xorBytes (dec3 (zeros 16) (zeros 8)) (zeros 8))

/-- The ACR of packet 3 when all is zero. -/
def zeroAcr3 : Block := acrValue (zeros 256) (zeros 128)
  (macEnd (zeros 16) (macStep (zeros 16) (macStep (zeros 16) (macStep (zeros 16) (macStep (zeros 16) (zeros 8) (zeros 8)) (zeros 8))
    (zeros 8)) (zeros 8))) (slice (zeros 8) 0 4) (zeros 32)

/-- DMEM of zeros with the ACR field of packet 3. -/
def withField3 (f : Bytes 8) : Memory := memWrite zeroMem 0x625 f

/-- What T2 reads when the ACR field of packet 3 is `f`. -/
def T2Reads (f : Bytes 8) : Prop :=
    PacketIs (withField3 f) 0x600 0 (zeros _) 0 ∧
    memReadBlocks (withField3 f) 0x605 4 = .ok #v[zeros 8, zeros 8, zeros 8, zeros 8] ∧
    memRead (withField3 f) 0x040 256 = .ok (zeros 256) ∧ memRead (withField3 f) 0x140 128 = .ok (zeros 128) ∧
    memRead (withField3 f) 0x625 8 = .ok f

theorem withField3_reads (f : Bytes 8) : T2Reads f := by
  have hr : ∀ a n, a + n ≤ 0x625 → memRead (withField3 f) a n = .ok (zeros n) := fun a n h => by
    rw [withField3, memRead_memWrite_other _ _ _ _ (.inl h), zeroMem_read _ _ (by omega)]
  have hg : ∀ x, x < 0x625 → memGet? (withField3 f) x = some 0 := fun x h => by
    rw [withField3, memGet?_memWrite, dif_neg (by omega), zeroMem_get _ (by omega)]
  refine ⟨⟨hg _ (by decide), hr _ _ (by decide), hg _ (by decide)⟩, memReadBlocks_eq_ok.mpr fun i hi => ?_, hr _ _ (by decide),
    hr _ _ (by decide), memRead_memWrite _ _ _⟩
  rw [hr _ _ (by omega)]
  match i, hi with
  | 0, _ => rfl
  | 1, _ => rfl
  | 2, _ => rfl
  | 3, _ => rfl

/-- A session that waits for packet 3 with the nonce `n`. -/
def challengedBy (n : Bytes 16) : Session := { zeroSession .challenged with nonce := n }

/-- A wrong checksum; then a right one with a nonce that differs, and with the one that agrees and both ACR fields. -/
theorem witness_TransitionFromChallenged :
    (∀ n, (challengedBy n).hsState = .challenged) ∧
    (PacketIs (memSet zeroMem 0x605 1) 0x600 0 (zeros _) 1 ∧ xorFold (zeros (0 : Byte).toNat).toList ≠ 1) ∧
    xorFold (zeros (0 : Byte).toNat).toList = 0 ∧
    (challengedBy (differ zeroNonce)).nonce ≠ zeroNonce ∧ (challengedBy zeroNonce).nonce = zeroNonce ∧
    (T2Reads (differ zeroAcr3) ∧ zeroAcr3 ≠ differ zeroAcr3) ∧
    T2Reads zeroAcr3 :=
  ⟨fun _ => rfl, ⟨(zeroMem_packet 0x600 (by decide)).2, by decide⟩, by decide, differ_ne16 _, rfl,
    ⟨withField3_reads _, differ_ne8 _⟩, withField3_reads _⟩

/-- The MAC of packets 4 and 5 when all is zero. -/
def zeroMac : Block := macEnd (zeros 16) (macStep (zeros 16) (blockEnc Config.params (lo8 (zeros 16)) (saltInc (lo8 (zeros 16)))) (zeros 8))

/-- DMEM of zeros with the MAC field of the packet at `a`. -/
def withField (a : Nat) (f : Block) : Memory := memWrite zeroMem (a + 13) f

/-- What T3 or T4 reads when the MAC field of the packet at `a` is `f`. -/
def FieldReads (a : Nat) (f : Block) : Prop :=
    PacketIs (withField a f) a 0 (zeros _) 0 ∧ memRead (withField a f) (a + 5) 8 = .ok (zeros 8) ∧
    memRead (withField a f) (a + 13) 8 = .ok f

theorem withField_reads (a : Nat) (f : Block) (h : a + 21 ≤ 4096) : FieldReads a f := by
  have hr : ∀ b n, b + n ≤ a + 13 → memRead (withField a f) b n = .ok (zeros n) := fun b n hb => by
    rw [withField, memRead_memWrite_other _ _ _ _ (.inl hb), zeroMem_read _ _ (by omega)]
  have hg : ∀ x, x < a + 13 → memGet? (withField a f) x = some 0 := fun x hx => by
    rw [withField, memGet?_memWrite, dif_neg (by omega), zeroMem_get _ (by omega)]
  exact ⟨⟨hg _ (by omega), hr _ _ (by simp), hg _ (by simp)⟩, hr _ _ (by omega), memRead_memWrite _ _ _⟩

theorem be64_saltInc_zero : be64 (saltInc (lo8 (zeros 16))) = (be64 (lo8 (zeros 16)) + 1) % 2 ^ 64 := by decide

/-- A wrong checksum; then a right one with the MAC field that differs and with the one that agrees. -/
theorem witness_TransitionFromResponseReceived :
    (zeroSession .responseReceived).hsState = .responseReceived ∧
    (PacketIs (memSet zeroMem 0x805 1) 0x800 0 (zeros _) 1 ∧ xorFold (zeros (0 : Byte).toNat).toList ≠ 1) ∧
    (zeros 16).toList = (zeroSession .responseReceived).nonce.toList.take 12 ++ (zeroSession .responseReceived).usbr.toList.drop 12 ∧
    (zeros 16).toList = (match Config.params.xchg with
      | .swap => (zeroSession .responseReceived).usbr.toList.take 12 ++ (zeroSession .responseReceived).nonce.toList.drop 12
      | .copy => (zeroSession .responseReceived).usbr.toList) ∧
    xorFold (zeros (0 : Byte).toNat).toList = 0 ∧
    be64 (saltInc (lo8 (zeros 16))) = (be64 (lo8 (zeroSession .responseReceived).nonce) + 1) % 2 ^ 64 ∧
    (FieldReads 0x800 (differ zeroMac) ∧ zeroMac ≠ differ zeroMac) ∧
    FieldReads 0x800 zeroMac :=
  ⟨rfl, ⟨(zeroMem_packet 0x800 (by decide)).2, by decide⟩, by decide, by cases Config.params.xchg <;> decide, by decide,
    be64_saltInc_zero, ⟨withField_reads _ _ (by decide), differ_ne8 _⟩,
    withField_reads _ _ (by decide)⟩

/-- A wrong checksum; then a right one with the MAC field that differs and with the one that agrees. -/
theorem witness_TransitionFromVerified :
    (zeroSession .verified1).hsState = .verified1 ∧
    (PacketIs (memSet zeroMem 0xA05 1) 0xA00 0 (zeros _) 1 ∧ xorFold (zeros (0 : Byte).toNat).toList ≠ 1) ∧
    xorFold (zeros (0 : Byte).toNat).toList = 0 ∧
    be64 (saltInc (lo8 (zeros 16))) = (be64 (lo8 (zeroSession .verified1).nonce) + 1) % 2 ^ 64 ∧
    (FieldReads 0xA00 (differ zeroMac) ∧ zeroMac ≠ differ zeroMac) ∧
    FieldReads 0xA00 zeroMac :=
  ⟨rfl, ⟨(zeroMem_packet 0xA00 (by decide)).2, by decide⟩, by decide, be64_saltInc_zero, ⟨withField_reads _ _ (by decide), differ_ne8 _⟩,
    withField_reads _ _ (by decide)⟩

/-- The ACR of T5 when all is zero. -/
def zeroAcr5 : Block := acrValue (zeros 256) (zeros 128) (hi8 (zeros 16)) (slice (zeros 8) 0 4) (zeros 32)

/-- A zero session that expects the ACR `a`. -/
def expecting (a : Block) : Session := { zeroSession .responseVerified1 with expacr := a }

theorem witness_TransitionFromResponseVerified :
    (∀ a, (expecting a).hsState = .responseVerified1) ∧ memRead zeroMem 0x040 256 = .ok (zeros 256) ∧
    memRead zeroMem 0x140 128 = .ok (zeros 128) ∧ zeroAcr5 ≠ (expecting (differ zeroAcr5)).expacr ∧
    zeroAcr5 = (expecting zeroAcr5).expacr :=
  ⟨fun _ => rfl, zeroMem_read _ _ (by decide), zeroMem_read _ _ (by decide), differ_ne8 _, rfl⟩

theorem witness_HsrunReachesTerminalState : zeroState.session.hsState ≠ .complete ∧ zeroState.session.hsState ≠ .failed ∧
    ∀ st, TransitionLoaded zeroState.dmem st := ⟨by decide, by decide, zeroMem_transitionLoaded⟩

/-- Packet 1 with a wrong checksum, and HSRUN pending. -/
def badPacket1 : State := acceptCommand 0x00000009 { State.reset with dmem := [(0x204, 0), (0x205, 1)] }

/-- `loadedPacket1` with a wrong checksum of packet 2; nothing else of DMEM is written. -/
def badPacket2 : State := load 0x404 [0, 1] loadedPacket1

/-- A run that completes; a chain of one HSSTEP and a chain of two, each ending in Failed with little of DMEM written. -/
theorem witness_HsrunIsRepeatedHsstep :
    (badPacket1.session.hsState ≠ .complete ∧ badPacket1.session.hsState ≠ .failed ∧ ∃ t, exec .hsrun badPacket1 = .next t) ∧
    (HsstepChain badPacket1 1 (hsstepSessions badPacket1) ∧ (hsstepSessions badPacket1 1).hsState = .failed) ∧
    (HsstepChain badPacket2 2 (hsstepSessions badPacket2) ∧ (hsstepSessions badPacket2 2).hsState = .failed) :=
  ⟨⟨by decide, by decide, _, rfl⟩,
    ⟨⟨rfl, fun j hj => by
      obtain rfl : j = 0 := by omega
      exact ⟨by decide, by decide, _, rfl, rfl⟩⟩, rfl⟩,
    ⟨⟨rfl, fun j hj =>
      match j, hj with
      | 0, _ => ⟨by decide, by decide, _, rfl, rfl⟩
      | 1, _ => ⟨show HsState.identified ≠ .complete by decide, show HsState.identified ≠ .failed by decide, _, rfl, rfl⟩⟩, rfl⟩⟩

theorem witness_SequencerNeverGoesBack :
    (¬ SessionResetNext badPacket1 ∧ ∃ t, step badPacket1 = .next t) ∧
    (SessionResetNext (pending 0x00000007) ∧ ∃ t, step (pending 0x00000007) = .next t) ∧
    SessionResetNext (withSchedule [.hardReset] State.reset) ∧
    SessionResetNext (withSchedule [.bus (.write32 0x1008 2)] State.reset) ∧ badPacket1.session.hsState ≠ .complete ∧
    badPacket1.session.hsState ≠ .failed ∧ ∃ t, exec .hsstep badPacket1 = .next t :=
  ⟨⟨fun h => by simp [SessionResetNext, nextEvent, badPacket1, acceptCommand, State.reset] at h; exact absurd h (by decide), _, rfl⟩,
    ⟨⟨rfl, by decide⟩, _, rfl⟩, trivial, rfl, by decide, by decide, _, rfl⟩

/-- Both values of BUSY, for the statements on host accesses. -/
theorem witness_CmdWriteStartsCommand : State.reset.status.busy = false ∧ (pending 0x00000007).status.busy = true := by decide

theorem witness_CtrlReadsAndWrites : (0x00000001 : Word).toNat / 2 % 2 = 0 ∧ (0xFFFFFFFF : Word).toNat / 2 % 2 = 1 := by decide

theorem witness_OperandRegistersReadAndWrite : State.reset.status.busy = false ∧ (pending 0x00000007).status.busy = true ∧
    (0x100C : BusAddr) ∈ ([0x100C, 0x1010, 0x1014, 0x1018, 0x101C] : List BusAddr) ∧
    (0x101C : BusAddr) ∈ ([0x100C, 0x1010, 0x1014, 0x1018, 0x101C] : List BusAddr) := by decide

theorem witness_HsstatAndReservedRegisters :
    (0x1024 ≤ (0x1024 : BusAddr).toNat ∧ (0x1024 : BusAddr).toNat < 0x1040 ∧ (0x1024 : BusAddr).toNat % 4 = 0) ∧
    (0x1024 ≤ (0x103C : BusAddr).toNat ∧ (0x103C : BusAddr).toNat < 0x1040 ∧ (0x103C : BusAddr).toNat % 4 = 0) ∧
    (0x1040 ≤ (0x1040 : BusAddr).toNat ∧ (0x10FF : BusAddr).toNat < 0x1100 ∧ 0x1180 ≤ (0x1180 : BusAddr).toNat ∧
      0x1180 ≤ (0x1FFF : BusAddr).toNat) := by decide

/-- The ends of the ranges that refuse a width, accepted accesses next to them, and with BUSY = 1 accesses that R76 names and one that
it does not. -/
theorem witness_RefusedWidthSetsBerr :
    (WidthRefused (.read8 0x1000) ∧ WidthRefused (.write8 0x103F 0) ∧ WidthRefused (.read32 0x0000) ∧
      WidthRefused (.write32 0x0FFF 0) ∧ WidthRefused (.read32 0x1001) ∧ WidthRefused (.write32 0x103F 0) ∧
      WidthRefused (.read32 0x1100) ∧ WidthRefused (.write32 0x117F 0) ∧ State.reset.status.busy = false) ∧
    (¬ WidthRefused (.read8 0x0FFF) ∧ ¬ WidthRefused (.read8 0x1040) ∧ ¬ WidthRefused (.read32 0x1000) ∧
      ¬ WidthRefused (.read32 0x103C) ∧ ¬ WidthRefused (.read32 0x1180)) ∧
    ((pending 0x00000007).status.busy = true ∧ engineOwns (.read32 0x0000) = true ∧ engineOwns (.write32 0x0FFF 0) = true ∧
      engineOwns (.write8 0x1003 0) = true ∧ engineOwns (.write8 0x101F 0) = true ∧ engineOwns (.read32 0x117F) = true ∧
      engineOwns (.write8 0x1020 0) = false ∧ engineOwns (.write32 0x1100 0) = false) ∧
    (busStep (.read8 0x0FFF) { State.reset with status := { Status.reset with berr := true } }).status.berr = true := by
  refine ⟨?_, ?_, by decide, by decide⟩ <;> simp only [WidthRefused] <;> decide

theorem witness_SessionWindowReads : ((0x1100 : BusAddr).toNat = 0x1100 + 0 ∧ 0 < 128) ∧
    ((0x117F : BusAddr).toNat = 0x1100 + 127 ∧ 127 < 128) ∧ State.reset.status.busy = false := by decide

theorem witness_HostDmemAccess : (0x0000 : BusAddr).toNat < 0x1000 ∧ (0x0FFF : BusAddr).toNat < 0x1000 ∧
    State.reset.status.busy = false ∧ memGet? State.reset.dmem (0x0FFF : BusAddr).toNat = none ∧
    memGet? (load 0xFFF [0x5A] State.reset).dmem (0x0FFF : BusAddr).toNat = some 0x5A := by decide

theorem witness_BusyRefusesHostAccess : (pending 0x00000007).status.busy = true ∧ (0x0FFF : BusAddr).toNat < 0x1000 ∧
    (0x1100 ≤ (0x1100 : BusAddr).toNat ∧ (0x1100 : BusAddr).toNat < 0x1180) ∧
    (0x1100 ≤ (0x117F : BusAddr).toNat ∧ (0x117F : BusAddr).toNat < 0x1180) := by decide

/-- A command that completes, and one that faults. -/
theorem witness_ResultsAreIndependentOfInterleaving :
    (statusInv (pending 0x00000007).status ∧ (pending 0x00000007).status.busy = true ∧
      isSoftReset (.write32 0x1004 0xFFFFFFFF) = false ∧ ∃ t, engineStep (pending 0x00000007) = .next t) ∧
    (statusInv (pending 0x00000002).status ∧ (pending 0x00000002).status.busy = true ∧
      engineStep (pending 0x00000002) = .fault (.unwrittenRead .norm 5)) :=
  ⟨⟨by unfold statusInv; decide, rfl, by decide, _, rfl⟩, ⟨by unfold statusInv; decide, rfl, rfl⟩⟩

theorem witness_InterruptLevel : ((pending 0x00000007).status.busy = true ∧ ∃ t, engineStep (pending 0x00000007) = .next t) ∧
    ({ State.reset with status := { Status.reset with done := true } } : State).status.done = true ∧
    (0x00000002 : Word).toNat / 2 % 2 = 1 ∧ State.reset.status.busy = false := ⟨⟨rfl, _, rfl⟩, rfl, by decide, rfl⟩

theorem witness_StepKeepsMemoryCanonical : Memory.wf blkState.dmem ∧ ∃ t, step (blkPending 0x500) = .next t :=
  ⟨by decide, _, rfl⟩

theorem witness_StepKeepsVerdictConsistent : sessionInv badPacket1.session ∧ sessionInv failedSession ∧
    ∃ t, step badPacket1 = .next t := ⟨by unfold sessionInv; decide, by unfold sessionInv; decide, _, rfl⟩

theorem witness_StepKeepsFlagsConsistent : statusInv badPacket1.status ∧ ∃ t, step badPacket1 = .next t :=
  ⟨by unfold statusInv; decide, _, rfl⟩

end Sys2Proof.Tests
end

-- The statements of 10_state.md: laws, then the settlements
section
/-! SUPPORT. What the engine's turn, a command and a whole step can do, said once; what each kind of event keeps of DMEM's form, of
the STATUS flags and of the session; and the control registers by the value of their fields and as the host reaches them. -/

namespace Sys2Proof.Machine

/-! ## The engine's turn (10_state.md R20, R31; 20_memory.md R75) -/

/-- A pending command whose word is legal is run. -/
theorem engineStep_of_decode {s : State} {i : Instr} (hb : s.status.busy = true) (hd : decode s.latch = .ok i) :
    engineStep s = exec i s := by
  simp [engineStep, hb, decodeLatch, hd]

/-- All that the engine's turn can do: it idles, runs the decoded command, or takes E_ILLEGAL. -/
theorem engineStep_eq_next {s t : State} (h : engineStep s = .next t) :
    (s.status.busy = false ∧ t = s) ∨
    (s.status.busy = true ∧ ((∃ i, decode s.latch = .ok i ∧ exec i s = .next t) ∨
      ((∀ i, decode s.latch ≠ .ok i) ∧ t = takeError .illegal s))) := by
  cases hb : s.status.busy with
  | false =>
    simp only [engineStep, hb, Bool.false_eq_true, if_false, Host.Outcome.next.injEq] at h
    exact .inl ⟨rfl, h.symm⟩
  | true =>
    refine .inr ⟨rfl, ?_⟩
    cases hd : decode s.latch with
    | ok i =>
      rw [engineStep_of_decode hb hd] at h
      exact .inl ⟨i, rfl, h⟩
    | error e =>
      simp only [engineStep, hb, if_true, decodeLatch, hd, Host.Outcome.next.injEq] at h
      exact .inr ⟨by simp, h.symm⟩

/-- All that a command can change: DMEM, the session, RESULT and its completion; or the error report alone (10_state.md R32, R44;
60_exceptions.md R261, R264). -/
theorem exec_effect {i : Instr} {s t : State} (h : exec i s = .next t) :
    (∃ m S r, t = complete (withDmem m (withSession S (withResult r s))) ∧
      (i ≠ .cksum → i ≠ .hsstep → i ≠ .hsrun → r = s.status.result) ∧
      (i ≠ .hsrst → i ≠ .hsstep → i ≠ .hsrun → S = s.session) ∧ (Memory.wf s.dmem → Memory.wf m)) ∨
    ∃ e, e ≠ ErrCode.none ∧ t = takeError e s := by
  rcases exec_eq_next h with ⟨u, hu, rfl⟩ | ⟨e, he, -, rfl⟩
  · obtain ⟨m, S, r, rfl, hr, hS, hm⟩ := commandBody_frame hu
    exact .inl ⟨m, S, r, rfl, hr, hS, hm⟩
  · exact .inr ⟨e, he, rfl⟩

/-! ## A whole step (20_memory.md R74) -/

/-- With the engine's turn at the head of the schedule, a step is that turn. -/
theorem step_engine_head {s : State} {es : List Event} (h : s.schedule = .engine :: es) :
    step s = engineStep (withSchedule es s) := by
  simp [step, nextEvent, h, eventStep]

/-- With no event left, a step is the engine's turn (log 13). -/
theorem step_schedule_empty {s : State} (h : s.schedule = []) : step s = engineStep s := by
  simp [step, nextEvent, h, eventStep]

/-- The induction step of every invariant: what taking an event off the schedule, a host transaction, the engine's turn and a
hardware reset each keep, every step keeps. -/
theorem step_keeps {I : State → Prop} (hschedule : ∀ es s, I s → I (withSchedule es s))
    (hbus : ∀ op s, I s → I (busStep op s)) (hengine : ∀ s t, I s → engineStep s = .next t → I t)
    (hreset : ∀ s, I s → I (hardReset s)) {s t : State} (hs : I s) (h : step s = .next t) : I t := by
  have hu : I (nextEvent s).2 := by
    unfold nextEvent
    split
    · exact hs
    · exact hschedule _ _ hs
  unfold step at h
  cases he : (nextEvent s).1 with
  | bus op =>
    simp only [he, eventStep, Host.Outcome.next.injEq] at h
    exact h ▸ hbus op _ hu
  | engine =>
    simp only [he, eventStep] at h
    exact hengine _ _ hu h
  | hardReset =>
    simp only [he, eventStep, Host.Outcome.next.injEq] at h
    exact h ▸ hreset _ hu

/-! ## DMEM keeps its canonical form (10_state.md R45; 30_encoding.md R95) -/

/-- The memory after a hardware reset is in canonical form. -/
theorem memory_wf_nil : Memory.wf [] := ⟨List.Pairwise.nil, by simp⟩

/-- No host transaction leaves DMEM: the one that writes it writes an address below its size. -/
theorem busStep_keeps_memory_wf (op : BusOp) {s : State} (hs : Memory.wf s.dmem) : Memory.wf (busStep op s).dmem := by
  rcases busStep_cases op s with ⟨_, _, _, _, e⟩ | ⟨_, e⟩ | ⟨e, -⟩ | ⟨_, e⟩ |
    ⟨-, ⟨_, e⟩ | ⟨i, v, hi, e⟩ | ⟨_, _, _, _, _, e⟩⟩ <;> rw [e]
  · exact hs
  · exact hs
  · exact hs
  · exact hs
  · exact hs
  · exact memSet_wf hi hs
  · exact hs

/-- No command leaves DMEM: the region it writes was range-checked. -/
theorem exec_keeps_memory_wf {i : Instr} {s t : State} (hs : Memory.wf s.dmem) (h : exec i s = .next t) : Memory.wf t.dmem := by
  rcases exec_effect h with ⟨m, S, r, rfl, -, -, hm⟩ | ⟨e, -, rfl⟩
  · exact hm hs
  · exact hs

theorem engineStep_keeps_memory_wf {s t : State} (hs : Memory.wf s.dmem) (h : engineStep s = .next t) : Memory.wf t.dmem := by
  rcases engineStep_eq_next h with ⟨-, rfl⟩ | ⟨-, ⟨i, -, hi⟩ | ⟨-, rfl⟩⟩
  · exact hs
  · exact exec_keeps_memory_wf hs hi
  · exact hs

/-! ## The STATUS flags agree (10_state.md R24, R25; 60_exceptions.md R261, R264) -/

theorem statusInv_reset : statusInv Status.reset := by simp [statusInv, Status.reset]

/-- A newly accepted command has a clear report. -/
theorem statusInv_acceptFlags (t : Status) : statusInv (acceptFlags t) := by simp [statusInv]

/-- Clearing flags of an agreeing report leaves it agreeing: ERR can go without its code, never come without one. -/
theorem statusInv_clearFlags (w : Word) {t : Status} (h : statusInv t) : statusInv (clearFlags w t) := by
  obtain ⟨hbusy, herr, hcode⟩ := h
  refine ⟨fun hb => ?_, fun he => ?_, hcode⟩
  · obtain ⟨hd, he, hr, hc⟩ := hbusy hb
    exact ⟨by simp [hd], by simp [he], hr, hc⟩
  · rw [clearFlags_err, Bool.and_eq_true] at he
    exact herr he.1

/-- A pending command has a clear report, so its completion without error reports no code, with either RESULT. -/
theorem statusInv_completeFlags (r : Bool) {t : Status} (hb : t.busy = true) (h : statusInv t) :
    statusInv (completeFlags (resultFlag r t)) := by
  obtain ⟨-, he, -, hc⟩ := h.1 hb
  simp [statusInv, he, hc]

/-- A pending command has RESULT = 0, so its completion with an error leaves RESULT = 0 beside the code. -/
theorem statusInv_errorFlags {e : ErrCode} {t : Status} (he : e ≠ .none) (hb : t.busy = true) (h : statusInv t) :
    statusInv (errorFlags e t) := by
  obtain ⟨-, -, hr, -⟩ := h.1 hb
  simp [statusInv, he, hr]

/-- No host transaction makes the flags disagree; OVR and BERR are no part of the agreement. -/
theorem busStep_keeps_statusInv (op : BusOp) {s : State} (hs : statusInv s.status) : statusInv (busStep op s).status := by
  rcases busStep_cases op s with ⟨_, _, _, _, e⟩ | ⟨w, e⟩ | ⟨e, -⟩ | ⟨_, e⟩ |
    ⟨-, ⟨w, e⟩ | ⟨_, _, -, e⟩ | ⟨_, _, _, _, _, e⟩⟩ <;> rw [e]
  · exact hs
  · exact statusInv_clearFlags w hs
  · exact statusInv_reset
  · exact hs
  · exact statusInv_acceptFlags s.status
  · exact hs
  · exact hs

theorem exec_keeps_statusInv {i : Instr} {s t : State} (hb : s.status.busy = true) (hs : statusInv s.status)
    (h : exec i s = .next t) : statusInv t.status := by
  rcases exec_effect h with ⟨m, S, r, rfl, -, -, -⟩ | ⟨e, he, rfl⟩
  · exact statusInv_completeFlags r hb hs
  · exact statusInv_errorFlags he hb hs

theorem engineStep_keeps_statusInv {s t : State} (hs : statusInv s.status) (h : engineStep s = .next t) : statusInv t.status := by
  rcases engineStep_eq_next h with ⟨-, rfl⟩ | ⟨hb, ⟨i, -, hi⟩ | ⟨-, rfl⟩⟩
  · exact hs
  · exact exec_keeps_statusInv hb hs hi
  · exact statusInv_errorFlags (by simp) hb hs

/-! ## What leaves the session registers alone (10_state.md R44) -/

theorem exec_keeps_session {i : Instr} {s t : State} (h1 : i ≠ .hsrst) (h2 : i ≠ .hsstep) (h3 : i ≠ .hsrun)
    (h : exec i s = .next t) : t.session = s.session := by
  rcases exec_effect h with ⟨m, S, r, rfl, -, hS, -⟩ | ⟨e, -, rfl⟩
  · exact hS h1 h2 h3
  · rfl

theorem engineStep_illegal_keeps_session {s t : State} (hd : ∀ i, decode s.latch ≠ .ok i) (h : engineStep s = .next t) :
    t.session = s.session := by
  rcases engineStep_eq_next h with ⟨-, rfl⟩ | ⟨-, ⟨i, hi, -⟩ | ⟨-, rfl⟩⟩
  · rfl
  · exact absurd hi (hd i)
  · rfl

/-- Of the host's transactions only the soft reset reaches the session registers. -/
theorem busStep_keeps_session {op : BusOp} (hop : isSoftReset op = false) (s : State) :
    (busStep op s).session = s.session := by
  rcases busStep_cases op s with ⟨_, _, _, _, e⟩ | ⟨_, e⟩ | ⟨-, a, w, rfl, ha, hw⟩ | ⟨_, e⟩ |
    ⟨-, ⟨_, e⟩ | ⟨_, _, -, e⟩ | ⟨_, _, _, _, _, e⟩⟩
  · simp [e]
  · simp [e]
  · rw [isSoftReset, hw, Bool.and_true, decide_eq_false_iff_not] at hop
    exact absurd ha hop
  · simp [e]
  · simp [e]
  · simp [e]
  · simp [e]

/-! ## Bits and register words -/

/-- Bit `i` of a word, by value. -/
theorem getLsbD_eq_div_mod {n : Nat} (w : BitVec n) (i : Nat) : w.getLsbD i = (w.toNat / 2 ^ i % 2 == 1) := by
  rw [← BitVec.testBit_toNat, Nat.testBit_eq_decide_div_mod_eq, beq_eq_decide]

/-- The low `n` bits of a word, by value. -/
theorem extractLsb'_zero_eq_ofNat {m : Nat} (w : BitVec m) (n : Nat) : w.extractLsb' 0 n = BitVec.ofNat n w.toNat :=
  BitVec.eq_of_toNat_eq (by simp)

/-- The value of two fields side by side. -/
theorem toNat_append_eq_add {m n : Nat} (x : BitVec m) (y : BitVec n) : (x ++ y).toNat = x.toNat * 2 ^ n + y.toNat := by
  rw [BitVec.toNat_append, ← Nat.shiftLeft_add_eq_or_of_lt y.isLt, Nat.shiftLeft_eq]

/-- STATUS by the values of its fields (10_state.md R25). -/
theorem toNat_statusWord (t : Status) : (statusWord t).toNat =
    t.busy.toNat + 2 * t.done.toNat + 4 * t.err.toNat + 8 * t.result.toNat + 16 * t.ovr.toNat + 32 * t.berr.toNat +
      256 * (errCodeBits t.errcode).toNat := by
  simp only [statusWord, toNat_append_eq_add, BitVec.toNat_ofBool, BitVec.ofNat_eq_ofNat, BitVec.toNat_ofNat, Nat.zero_mod]
  omega

/-- HSSTAT by the values of its fields (10_state.md R29). -/
theorem toNat_hsstatWord (S : Session) : (hsstatWord S).toNat =
    (hsStateBits S.hsState).toNat + 16 * (failKindBits S.failKind).toNat + 256 * (hsStateBits S.failAt).toNat := by
  simp only [hsstatWord, toNat_append_eq_add, BitVec.ofNat_eq_ofNat, BitVec.toNat_ofNat, Nat.zero_mod]
  omega

/-- CTRL by the value of IE (10_state.md R26). -/
theorem ctrlWord_eq (ie : Bool) : ctrlWord ie = if ie then 1 else 0 := by
  cases ie <;> rfl

/-! ## The addresses of the control registers (10_state.md R23) -/

theorem busTarget_cmd : busTarget 0x1000 = .creg .cmd := by simp [busTarget, ctrlReg]
theorem busTarget_status : busTarget 0x1004 = .creg .status := by simp [busTarget, ctrlReg]
theorem busTarget_ctrl : busTarget 0x1008 = .creg .ctrl := by simp [busTarget, ctrlReg]
theorem busTarget_src : busTarget 0x100C = .creg .src := by simp [busTarget, ctrlReg]
theorem busTarget_dst : busTarget 0x1010 = .creg .dst := by simp [busTarget, ctrlReg]
theorem busTarget_key : busTarget 0x1014 = .creg .key := by simp [busTarget, ctrlReg]
theorem busTarget_aux : busTarget 0x1018 = .creg .aux := by simp [busTarget, ctrlReg]
theorem busTarget_len : busTarget 0x101C = .creg .len := by simp [busTarget, ctrlReg]
theorem busTarget_hsstat : busTarget 0x1020 = .creg .hsstat := by simp [busTarget, ctrlReg]

/-- The addresses past HSSTAT select the reserved registers. -/
theorem busTarget_reserved_creg {a : BusAddr} (hlo : 0x1024 ≤ a.toNat) (hhi : a.toNat < 0x1040) :
    busTarget a = .creg .reserved := by
  have hreg : ctrlReg a.toNat = .reserved := by
    unfold ctrlReg
    split
    case h_10 => rfl
    all_goals omega
  rw [busTarget_creg (by omega) hhi, hreg]

/-! ## Accesses to a control register (20_memory.md R60, R76) -/

/-- An aligned 32-bit read of a control register returns its word and changes nothing else, whatever BUSY is. -/
theorem busStep_read32_creg {a : BusAddr} {r : CtrlReg} (ht : busTarget a = .creg r) (halign : a.toNat % 4 = 0) (s : State) :
    busStep (.read32 a) s = { s with readData := .word (readCtrl s r) } := by
  simp [busStep, busRead32, ht, halign, withReadData]

/-- An aligned 32-bit write to a control register. -/
theorem busStep_write32_creg {a : BusAddr} {r : CtrlReg} (ht : busTarget a = .creg r) (halign : a.toNat % 4 = 0) (w : Word)
    (s : State) : busStep (.write32 a w) s = writeCtrl r w s := by
  simp [busStep, busWrite32, ht, halign]

/-- A write to CMD or to an operand register is dropped while BUSY = 1 and sets OVR. -/
theorem busStep_write32_owned {a : BusAddr} {r : CtrlReg} (ht : busTarget a = .creg r) (halign : a.toNat % 4 = 0)
    (hr : ownedWrite (.creg r) = true) {s : State} (hb : s.status.busy = true) (w : Word) :
    busStep (.write32 a w) s = setOvr s := by
  rw [busStep_write32_creg ht halign]
  cases r <;> simp [ownedWrite] at hr <;> simp [writeCtrl, hb]

end Sys2Proof.Machine
end

section
/-! PROOFS. The statements of 10_state.md, by tier. -/

namespace Sys2Proof.Machine

/-! ## Invariants -/

/-- Settles O57: each kind of event keeps the canonical form, hence every step does. -/
theorem stepKeepsMemoryCanonical : Obligations.StepKeepsMemoryCanonical := fun _ _ hs h =>
  step_keeps (I := fun s => Memory.wf s.dmem) (fun _ _ => id) (fun op _ => busStep_keeps_memory_wf op)
    (fun _ _ => engineStep_keeps_memory_wf) (fun _ _ => memory_wf_nil) hs h

/-- Settles O59: each kind of event keeps the flags in agreement, hence every step does. -/
theorem stepKeepsFlagsConsistent : Obligations.StepKeepsFlagsConsistent := fun _ _ hs h =>
  step_keeps (I := fun s => statusInv s.status) (fun _ _ => id) (fun op _ => busStep_keeps_statusInv op)
    (fun _ _ => engineStep_keeps_statusInv) (fun _ _ => statusInv_reset) hs h

/-! ## What commands and host accesses leave unchanged -/

/-- Settles O14: none of these fields is among what a command can change. -/
theorem commandsKeepRegisters : Obligations.CommandsKeepRegisters := by
  intro i s t h
  rcases exec_effect h with ⟨m, S, r, rfl, hr, -, -⟩ | ⟨e, -, rfl⟩
  · exact ⟨by simp [KeepsRegisters], rfl, rfl, hr⟩
  · exact ⟨by simp [KeepsRegisters], rfl, rfl, fun _ _ _ => rfl⟩

/-- Settles O16: the other commands, an illegal word, and the host. -/
theorem sessionIsWrittenOnlyByHandshake : Obligations.SessionIsWrittenOnlyByHandshake :=
  ⟨fun _ _ _ => exec_keeps_session, fun _ _ => engineStep_illegal_keeps_session, fun _ s hop => busStep_keeps_session hop s⟩

/-! ## STATUS -/

/-- Settles O46: the word by the value of its fields, the cleared bits by the value of the word written. -/
theorem statusReadsAndClears : Obligations.StatusReadsAndClears := by
  intro s w
  have hread := busStep_read32_creg busTarget_status (by decide) s
  have hwrite := busStep_write32_creg busTarget_status (by decide) w s
  refine ⟨⟨statusWord s.status, hread, toNat_statusWord s.status⟩, ?_⟩
  simp only [hwrite, writeCtrl, clearReport, clearFlags, getLsbD_eq_div_mod]
  rfl

/-! ## The engine's turn -/

/-- Settles O4. -/
theorem stepRunsDecodedCommand : Obligations.StepRunsDecodedCommand := by
  intro s es i hb hd
  constructor
  · intro h
    rw [step_engine_head h]
    exact engineStep_of_decode hb hd
  · intro h
    rw [step_schedule_empty h]
    exact engineStep_of_decode hb hd

/-! ## The other control registers and the reserved addresses -/

/-- Settles O45. -/
theorem cmdWriteStartsCommand : Obligations.CmdWriteStartsCommand := by
  intro s w
  refine ⟨fun hb => ?_, fun hb => ?_, ?_⟩
  · rw [busStep_write32_creg busTarget_cmd (by decide), writeCtrl, hb]
    rfl
  · exact busStep_write32_owned busTarget_cmd (by decide) rfl hb w
  · exact busStep_read32_creg busTarget_cmd (by decide) s

/-- Settles O47: SRST is bit 1 and IE bit 0 of the word written. -/
theorem ctrlReadsAndWrites : Obligations.CtrlReadsAndWrites := by
  intro s w
  have hwrite : busStep (.write32 0x1008 w) s = writeCtrlReg w s := busStep_write32_creg busTarget_ctrl (by decide) w s
  have hsrst : w.getLsbD 1 = (w.toNat / 2 % 2 == 1) := getLsbD_eq_div_mod w 1
  have hie : w.getLsbD 0 = (w.toNat % 2 == 1) := by rw [getLsbD_eq_div_mod, Nat.pow_zero, Nat.div_one]
  refine ⟨?_, fun h => ?_, fun h => ?_⟩
  · rw [← ctrlWord_eq]
    exact busStep_read32_creg busTarget_ctrl (by decide) s
  · rw [hwrite, writeCtrlReg, hsrst, hie, h]
    rfl
  · rw [hwrite, writeCtrlReg, hsrst, h]
    rfl

/-- Settles O48. -/
theorem operandRegistersReadAndWrite : Obligations.OperandRegistersReadAndWrite := by
  intro s w
  refine ⟨fun hb => ?_, fun hb a ha => ?_, ?_⟩
  · rw [busStep_write32_creg busTarget_src (by decide), busStep_write32_creg busTarget_dst (by decide),
      busStep_write32_creg busTarget_key (by decide), busStep_write32_creg busTarget_aux (by decide),
      busStep_write32_creg busTarget_len (by decide)]
    simp only [writeCtrl, hb, ← extractLsb'_zero_eq_ofNat]
    exact ⟨rfl, rfl, rfl, rfl, rfl⟩
  · simp only [List.mem_cons, List.not_mem_nil, or_false] at ha
    rcases ha with rfl | rfl | rfl | rfl | rfl
    · exact busStep_write32_owned busTarget_src (by decide) rfl hb w
    · exact busStep_write32_owned busTarget_dst (by decide) rfl hb w
    · exact busStep_write32_owned busTarget_key (by decide) rfl hb w
    · exact busStep_write32_owned busTarget_aux (by decide) rfl hb w
    · exact busStep_write32_owned busTarget_len (by decide) rfl hb w
  · simp only [BitVec.ofNat_toNat]
    exact ⟨busStep_read32_creg busTarget_src (by decide) s, busStep_read32_creg busTarget_dst (by decide) s,
      busStep_read32_creg busTarget_key (by decide) s, busStep_read32_creg busTarget_aux (by decide) s,
      busStep_read32_creg busTarget_len (by decide) s⟩

/-- Settles O49. -/
theorem hsstatAndReservedRegisters : Obligations.HsstatAndReservedRegisters := by
  intro s w
  have hread := busStep_read32_creg busTarget_hsstat (by decide) s
  refine ⟨⟨hsstatWord s.session, hread, toNat_hsstatWord s.session⟩, ?_, fun a hlo hhi halign => ?_, fun a v ha => ?_⟩
  · exact busStep_write32_creg busTarget_hsstat (by decide) w s
  · have ht := busTarget_reserved_creg hlo hhi
    exact ⟨busStep_read32_creg ht halign s, busStep_write32_creg ht halign w s⟩
  · have ht : busTarget a = .reserved := by
      rcases ha with ⟨hlo, hhi⟩ | hlo
      · exact busTarget_reserved_low hlo hhi
      · exact busTarget_reserved_high hlo
    simp [busStep, busRead8, busRead32, busWrite8, busWrite32, ht, withReadData]

/-! ## Reset -/

/-- Settles O56: every register by evaluation, in each of the three states. -/
theorem resetsSetEveryRegister : Obligations.ResetsSetEveryRegister := by
  rintro s t (rfl | rfl | rfl) <;>
    exact ⟨rfl, rfl, rfl, rfl, rfl, rfl, rfl, rfl, rfl, rfl, rfl, rfl, rfl, rfl, rfl, rfl, rfl, rfl, rfl, rfl,
      fun _ => rfl, fun _ => rfl, fun _ => rfl⟩

/-- Settles O60. -/
theorem resetMeetsInvariants : Obligations.ResetMeetsInvariants :=
  ⟨memory_wf_nil, by simp [sessionInv, State.reset, Session.reset], statusInv_reset⟩

end Sys2Proof.Machine
end

-- The statements of 20_memory.md: laws, then the settlements
section
/-! SUPPORT. The host's accesses to DMEM and to the session window, the refused widths, and what a host transaction can change
while a command is pending, each said once. -/

namespace Sys2Proof.Machine

/-! ## DMEM and the session window (20_memory.md R62, R65, R76) -/

/-- An 8-bit write to DMEM is dropped while BUSY = 1 and sets OVR. -/
theorem busStep_write8_dmem_busy {a : BusAddr} (ha : a.toNat < 0x1000) {s : State} (hb : s.status.busy = true) (v : Byte) :
    busStep (.write8 a v) s = setOvr s := by
  simp [busStep, busWrite8, busTarget_dmem ha, hb]

/-- An 8-bit write to DMEM stores its byte while BUSY = 0. -/
theorem busStep_write8_dmem_idle {a : BusAddr} (ha : a.toNat < 0x1000) {s : State} (hb : s.status.busy = false) (v : Byte) :
    busStep (.write8 a v) s = withDmem (memSet s.dmem a.toNat v) s := by
  simp [busStep, busWrite8, busTarget_dmem ha, hb]

/-- An 8-bit read that R76 names returns 0x00 while BUSY = 1 and sets OVR. -/
theorem busStep_read8_busy {a : BusAddr} (ha : a.toNat < 0x1000 ∨ (0x1100 ≤ a.toNat ∧ a.toNat < 0x1180)) {s : State}
    (hb : s.status.busy = true) : busStep (.read8 a) s = busyRead s := by
  rcases ha with ha | ⟨hlo, hhi⟩
  · simp [busStep, busRead8, busTarget_dmem ha, hb]
  · simp [busStep, busRead8, busTarget_window hlo hhi, hb]

/-- An 8-bit read of a written DMEM byte returns it while BUSY = 0. -/
theorem busStep_read8_written {a : BusAddr} (ha : a.toNat < 0x1000) {s : State} (hb : s.status.busy = false) {b : Byte}
    (hw : memGet? s.dmem a.toNat = some b) : busStep (.read8 a) s = withReadData (.byte b) s := by
  simp [busStep, busRead8, busTarget_dmem ha, hb, hw]

/-- An 8-bit read of an unwritten DMEM byte returns a free draw while BUSY = 0 (log 3). -/
theorem busStep_read8_unwritten {a : BusAddr} (ha : a.toNat < 0x1000) {s : State} (hb : s.status.busy = false)
    (hw : memGet? s.dmem a.toNat = none) :
    busStep (.read8 a) s = countDraw (withReadData (.byte (Config.freeByte s.draws)) s) := by
  simp [busStep, busRead8, busTarget_dmem ha, hb, hw]

/-- An 8-bit read of the session window returns its byte while BUSY = 0. -/
theorem busStep_read8_window {a : BusAddr} {i : Nat} (ha : a.toNat = 0x1100 + i) (hi : i < 128) {s : State}
    (hb : s.status.busy = false) : busStep (.read8 a) s = withReadData (.byte (windowByte s.session i)) s := by
  have ht : busTarget a = .window i := by rw [busTarget_window (by omega) (by omega), ha, Nat.add_sub_cancel_left]
  simp [busStep, busRead8, ht, hb]

/-- An 8-bit write to the session window is ignored, whatever BUSY is. -/
theorem busStep_write8_window {a : BusAddr} (hlo : 0x1100 ≤ a.toNat) (hhi : a.toNat < 0x1180) (v : Byte) (s : State) :
    busStep (.write8 a v) s = s := by
  simp [busStep, busWrite8, busTarget_window hlo hhi]

/-- The bytes of the window, register after register. -/
theorem windowByte_eq (S : Session) (i : Nat) : windowByte S i = (windowBytes S).getD i 0 := by
  simp only [windowByte, sessionWindow, windowBytes, toList_cat, List.append_assoc]

/-- One byte stored is a store of a one-byte string. -/
theorem storedAt_memSet (m : Memory) (a : Nat) (v : Byte) : StoredAt m a [v] (memSet m a v) := by
  refine ⟨fun i hi => ?_, fun x hx => ?_⟩
  · obtain rfl : i = 0 := by simpa using hi
    rw [Nat.add_zero, memGet?_memSet, if_pos rfl]
    rfl
  · rw [List.length_singleton] at hx
    rw [memGet?_memSet, if_neg (by omega)]

/-! ## Refused widths (20_memory.md R61; log 8, 9) -/

/-- A transaction of a refused width or alignment sets BERR, and OVR where R76 names it and BUSY = 1. -/
theorem busStep_of_widthRefused {op : BusOp} (h : WidthRefused op) (s : State) :
    busStep op s = withReadData (refusedReadData s op) (widthRefused (engineOwns op) s) := by
  have hwrite : ∀ owned, withReadData s.readData (widthRefused owned s) = widthRefused owned s := fun owned => by
    rw [widthRefused_eq]
    rfl
  cases op with
  | read8 a =>
    obtain ⟨hlo, hhi⟩ := h
    simp only [busStep, busRead8, engineOwns, ← ownedRead_busTarget, busTarget_creg hlo hhi, refusedReadData]
  | write8 a v =>
    obtain ⟨hlo, hhi⟩ := h
    simp only [busStep, busWrite8, engineOwns, ← ownedWrite_busTarget, busTarget_creg hlo hhi, refusedReadData, hwrite]
  | read32 a =>
    simp only [busStep, busRead32, engineOwns, ← ownedRead_busTarget, refusedReadData]
    rcases h with ha | ⟨hlo, hhi, halign⟩ | ⟨hlo, hhi⟩
    · rw [busTarget_dmem ha]
    · rw [busTarget_creg hlo hhi]
      exact if_neg halign
    · rw [busTarget_window hlo hhi]
  | write32 a w =>
    simp only [busStep, busWrite32, engineOwns, ← ownedWrite_busTarget, refusedReadData, hwrite]
    rcases h with ha | ⟨hlo, hhi, halign⟩ | ⟨hlo, hhi⟩
    · rw [busTarget_dmem ha]
    · rw [busTarget_creg hlo hhi]
      exact if_neg halign
    · rw [busTarget_window hlo hhi]

/-- A write that a control register accepts sets no BERR: it leaves the flag, clears it, or resets it. -/
theorem berr_of_writeCtrl {r : CtrlReg} {w : Word} {s : State} (h : (writeCtrl r w s).status.berr = true) :
    s.status.berr = true := by
  cases r
  case status =>
    simp only [writeCtrl, clearReport_status, clearFlags_berr, Bool.and_eq_true] at h
    exact h.1
  case ctrl =>
    simp only [writeCtrl, writeCtrlReg] at h
    split at h
    · simp [Status.reset] at h
    · exact h
  case hsstat => exact h
  case reserved => exact h
  all_goals
    simp only [writeCtrl] at h
    split at h <;> exact h

/-- A transaction of an accepted width sets no BERR. -/
theorem berr_of_not_widthRefused {op : BusOp} (hop : ¬ WidthRefused op) {s : State}
    (h : (busStep op s).status.berr = true) : s.status.berr = true := by
  cases op with
  | read8 a =>
    simp only [busStep, busRead8] at h
    rcases busTarget_cases a with ⟨-, e⟩ | ⟨hlo, hhi, -⟩ | ⟨-, -, e⟩ | ⟨-, e⟩
    · simp only [e] at h
      split at h
      · exact h
      · split at h <;> exact h
    · exact absurd ⟨hlo, hhi⟩ hop
    · simp only [e] at h
      split at h <;> exact h
    · simpa [e] using h
  | write8 a v =>
    simp only [busStep, busWrite8] at h
    rcases busTarget_cases a with ⟨-, e⟩ | ⟨hlo, hhi, -⟩ | ⟨-, -, e⟩ | ⟨-, e⟩
    · simp only [e] at h
      split at h <;> exact h
    · exact absurd ⟨hlo, hhi⟩ hop
    · simpa [e] using h
    · simpa [e] using h
  | read32 a =>
    simp only [busStep, busRead32] at h
    rcases busTarget_cases a with ⟨ha, -⟩ | ⟨hlo, hhi, e⟩ | ⟨hlo, hhi, -⟩ | ⟨-, e⟩
    · exact absurd (.inl ha) hop
    · have halign : a.toNat % 4 = 0 := by_contra fun hne => hop (.inr (.inl ⟨hlo, hhi, hne⟩))
      simpa [e, halign] using h
    · exact absurd (.inr (.inr ⟨hlo, hhi⟩)) hop
    · simpa [e] using h
  | write32 a w =>
    simp only [busStep, busWrite32] at h
    rcases busTarget_cases a with ⟨ha, -⟩ | ⟨hlo, hhi, e⟩ | ⟨hlo, hhi, -⟩ | ⟨-, e⟩
    · exact absurd (.inl ha) hop
    · have halign : a.toNat % 4 = 0 := by_contra fun hne => hop (.inr (.inl ⟨hlo, hhi, hne⟩))
      simp only [e, halign, if_true] at h
      exact berr_of_writeCtrl h
    · exact absurd (.inr (.inr ⟨hlo, hhi⟩)) hop
    · simpa [e] using h

/-! ## The engine's turn with no command pending (60_exceptions.md R275; log 13) -/

theorem engineStep_idle {s : State} (hb : s.status.busy = false) : engineStep s = .next s := by
  simp [engineStep, hb]

/-! ## A host transaction while a command is pending (20_memory.md R75, R76) -/

/-- `s` with the fields that a host transaction can change while a command is pending: OVR, BERR, IE, the last read data and the
draw count. -/
def hostTouched (ovr berr ie : Bool) (d : ReadData) (n : Nat) (s : State) : State :=
  { s with status := { s.status with ovr := ovr, berr := berr }, ie := ie, readData := d, draws := n }

/-- While a command is pending a host transaction but a soft reset changes these fields alone: DMEM and the operand registers are
refused to it, and of the report there is nothing to clear. -/
theorem busStep_eq_hostTouched {s : State} {op : BusOp} (hs : statusInv s.status) (hb : s.status.busy = true)
    (hop : isSoftReset op = false) : ∃ o b i d n, busStep op s = hostTouched o b i d n s := by
  rcases busStep_cases op s with ⟨o, b, d, n, e⟩ | ⟨w, e⟩ | ⟨-, a, w, rfl, ha, hw⟩ | ⟨i, e⟩ | ⟨hidle, -⟩
  · exact ⟨o, b, s.ie, d, n, e⟩
  · obtain ⟨hdone, herr, -, -⟩ := hs.1 hb
    have hclear : clearFlags w s.status =
        { s.status with ovr := s.status.ovr && !w.getLsbD 4, berr := s.status.berr && !w.getLsbD 5 } := by
      simp [clearFlags, hdone, herr]
    exact ⟨_, _, s.ie, s.readData, s.draws, by rw [e, hclear]; rfl⟩
  · rw [isSoftReset, hw, Bool.and_true, decide_eq_false_iff_not] at hop
    exact absurd ha hop
  · exact ⟨s.status.ovr, s.status.berr, i, s.readData, s.draws, e⟩
  · rw [hb] at hidle
    exact absurd hidle (by decide)

section
variable (o b ie : Bool) (d : ReadData) (n : Nat) (s : State)

@[simp] theorem hostTouched_dmem : (hostTouched o b ie d n s).dmem = s.dmem := rfl
@[simp] theorem hostTouched_session : (hostTouched o b ie d n s).session = s.session := rfl
@[simp] theorem srcAddr_hostTouched : srcAddr (hostTouched o b ie d n s) = srcAddr s := rfl
@[simp] theorem dstAddr_hostTouched : dstAddr (hostTouched o b ie d n s) = dstAddr s := rfl
@[simp] theorem keyAddr_hostTouched : keyAddr (hostTouched o b ie d n s) = keyAddr s := rfl
@[simp] theorem auxAddr_hostTouched : auxAddr (hostTouched o b ie d n s) = auxAddr s := rfl
@[simp] theorem lenCount_hostTouched : lenCount (hostTouched o b ie d n s) = lenCount s := rfl

@[simp] theorem withDmem_hostTouched (m : Memory) :
    withDmem m (hostTouched o b ie d n s) = hostTouched o b ie d n (withDmem m s) := rfl
@[simp] theorem withSession_hostTouched (S : Session) :
    withSession S (hostTouched o b ie d n s) = hostTouched o b ie d n (withSession S s) := rfl
@[simp] theorem withResult_hostTouched (r : Bool) :
    withResult r (hostTouched o b ie d n s) = hostTouched o b ie d n (withResult r s) := rfl

/-- The body of a MAC command takes no notice of these fields and passes them on. -/
theorem macBody_hostTouched (P : Params) (mode : MacMode) (saltEn : Bool) :
    macBody P mode saltEn (hostTouched o b ie d n s) = hostTouched o b ie d n <$> macBody P mode saltEn s := by
  cases saltEn
  · simp [macBody, mac_none_fst]
  · simp only [macBody, map_bind, srcAddr_hostTouched, dstAddr_hostTouched, keyAddr_hostTouched, auxAddr_hostTouched,
      lenCount_hostTouched, hostTouched_dmem, if_true]
    refine bind_congr fun _ => bind_congr fun _ => bind_congr fun _ => bind_congr fun _ => bind_congr fun _ => ?_
    split <;> rfl

/-- Every command's body takes no notice of these fields and passes them on. -/
theorem commandBody_hostTouched (i : Instr) :
    commandBody i (hostTouched o b ie d n s) = hostTouched o b ie d n <$> commandBody i s := by
  cases i
  case cksum => simp [commandBody, cksumBody]
  case norm => simp [commandBody, normBody]
  case blkD => simp [commandBody, blkBody]
  case blkE => simp [commandBody, blkBody]
  case tcbcD => simp [commandBody, tcbcBody]
  case tcbcE => simp [commandBody, tcbcBody]
  case macV => exact macBody_hostTouched o b ie d n s _ _ _
  case macG => exact macBody_hostTouched o b ie d n s _ _ _
  case macVS => exact macBody_hostTouched o b ie d n s _ _ _
  case macGS => exact macBody_hostTouched o b ie d n s _ _ _
  case acr => simp [commandBody, acrBody]
  case hsrst => rfl
  case hsstep => simp [commandBody, hsstepBody]
  case hsrun => simp [commandBody, hsrunBody]

/-- So a command faults as before, or gives the next state as before but for these fields. -/
theorem exec_hostTouched (i : Instr) :
    (∀ f, exec i s = .fault f → exec i (hostTouched o b ie d n s) = .fault f) ∧
    ∀ t, exec i s = .next t → exec i (hostTouched o b ie d n s) = .next (hostTouched o b ie d n t) := by
  simp only [exec_eq_finish, commandBody_hostTouched, finish_eq_fault, finish_eq_next]
  constructor
  · rintro f ⟨a, hbody, rfl⟩
    exact ⟨a, by rw [hbody]; rfl, rfl⟩
  · rintro t (⟨u, hbody, rfl⟩ | ⟨e, hbody, rfl⟩)
    · exact .inl ⟨hostTouched o b ie d n u, by rw [hbody]; rfl, rfl⟩
    · exact .inr ⟨e, by rw [hbody]; rfl, rfl⟩

/-- And so does the engine's turn with a command pending, be its word legal or not. -/
theorem engineStep_hostTouched (hb : s.status.busy = true) :
    (∀ f, engineStep s = .fault f → engineStep (hostTouched o b ie d n s) = .fault f) ∧
    ∀ t, engineStep s = .next t → engineStep (hostTouched o b ie d n s) = .next (hostTouched o b ie d n t) := by
  cases hd : decode s.latch with
  | ok i =>
    rw [engineStep_of_decode hb hd, engineStep_of_decode (s := hostTouched o b ie d n s) hb hd]
    exact exec_hostTouched o b ie d n s i
  | error e =>
    have hillegal : ∀ u : State, u.status.busy = true → u.latch = s.latch → engineStep u = .next (takeError .illegal u) :=
      fun u hu hl => by simp [engineStep, hu, decodeLatch, hl, hd]
    rw [hillegal s hb rfl, hillegal (hostTouched o b ie d n s) hb rfl]
    refine ⟨nofun, ?_⟩
    rintro t ⟨⟩
    rfl

end

end Sys2Proof.Machine
end

section
/-! SUPPORT. Which DMEM bytes a command reads: a body stops on exactly those (20_memory.md R65). -/

namespace Sys2Proof.Machine

/-! ## The first unwritten byte (20_memory.md R65; log 4) -/

/-- `MemRead` names the first unwritten byte of its region. -/
theorem memRead_eq_unwritten {m : Memory} {k : Nat} : ∀ {n a : Nat}, Written m a n → n < k → memGet? m (a + n) = none →
    memRead m a k = .error (.unwritten (a + n)) := by
  induction k with
  | zero => intro n a _ hn; exact absurd hn (Nat.not_lt_zero n)
  | succ k ih =>
    intro n a hw hn hnone
    cases n with
    | zero =>
      have hbyte : memReadByte m a = .error (.unwritten a) := memReadByte_eq_error.mpr ⟨hnone, rfl⟩
      simp [memRead, hbyte]
    | succ n =>
      obtain ⟨b, hb⟩ := Option.isSome_iff_exists.mp (hw 0 (by omega))
      have hrest : memRead m (a + 1) k = .error (.unwritten (a + 1 + n)) :=
        ih (fun i hi => by rw [Nat.add_right_comm]; exact hw (i + 1) (by omega)) (by omega)
          (by rw [Nat.add_right_comm]; exact hnone)
      have hbyte : memReadByte m a = .ok b := memReadByte_eq_ok.mpr hb
      simp [memRead, hbyte, hrest, Nat.add_right_comm a 1 n, Nat.add_assoc]

/-- BLK reads its key first: an abort of that read is BLK's (41_cipher.md R145, R146). -/
theorem blkBody_of_key_error {f : Block → Block → Block} {s : State} {e : Abort}
    (hfits : checkRange [(srcAddr s, 8), (keyAddr s, 8), (dstAddr s, 8)] = .ok ())
    (hkey : memRead s.dmem s.key.toNat 8 = .error e) : blkBody f s = .error e := by
  rw [blkBody, hfits, ok_bind, keyAddr, hkey]
  rfl

/-- After the key BLK reads its block. -/
theorem blkBody_of_src_error {f : Block → Block → Block} {s : State} {k : Block} {e : Abort}
    (hfits : checkRange [(srcAddr s, 8), (keyAddr s, 8), (dstAddr s, 8)] = .ok ())
    (hkey : memRead s.dmem s.key.toNat 8 = .ok k) (hsrc : memRead s.dmem s.src.toNat 8 = .error e) : blkBody f s = .error e := by
  rw [blkBody, hfits, ok_bind, keyAddr, hkey, ok_bind, srcAddr, hsrc]
  rfl

/-! ## Stopping on exactly the bytes read -/

/-- Given that its checks pass (`C`), a computation reads exactly the bytes `R`: it succeeds only if all of them are written, an
unwritten byte on which it aborts is one of them, and a command error means that a check failed. -/
def ReadsExactly {α : Type} (m : Memory) (C : Prop) (R : Nat → Prop) : Except Abort α → Prop
  | .ok _ => ∀ x, R x → memGet? m x ≠ none
  | .error (.unwritten a) => R a ∧ memGet? m a = none
  | .error (.cmdError _) => ¬ C

namespace ReadsExactly

variable {α β : Type} {m : Memory} {C : Prop} {R R' : Nat → Prop}

theorem congr {r : Except Abort α} (h : ReadsExactly m C R r) (hR : ∀ x, R x ↔ R' x) : ReadsExactly m C R' r :=
  funext (fun x => propext (hR x)) ▸ h

/-- Asking for more checks only weakens the claim. -/
theorem weaken {C' : Prop} {r : Except Abort α} (h : ReadsExactly m C R r) (hC : C' → C) : ReadsExactly m C' R r := by
  rcases r with (e | a) | v
  · exact fun hc => h (hC hc)
  · exact h
  · exact h

/-- A success reads nothing. -/
theorem of_ok {r : Except Abort α} (h : ∃ v, r = .ok v) : ReadsExactly m C (fun _ => False) r := by
  obtain ⟨v, rfl⟩ := h
  exact fun _ => False.elim

theorem pure (v : α) : ReadsExactly m C (fun _ => False) (Pure.pure v : Except Abort α) := of_ok ⟨v, rfl⟩

/-- A sequence reads what its parts read. -/
theorem bind {x : Except Abort α} {f : α → Except Abort β} (hx : ReadsExactly m C R x)
    (hf : ∀ v, x = .ok v → ReadsExactly m C R' (f v)) : ReadsExactly m C (fun z => R z ∨ R' z) (x >>= f) := by
  rcases x with (e | a) | v
  · exact hx
  · exact ⟨.inl hx.1, hx.2⟩
  · have hrest := hf v rfl
    rw [ok_bind]
    generalize f v = r at hrest
    rcases r with (e | a) | w
    · exact hrest
    · exact ⟨.inr hrest.1, hrest.2⟩
    · rintro z (hz | hz)
      · exact hx z hz
      · exact hrest z hz

/-- A check reads nothing, and where it fails no check of the rest matters. -/
theorem check {x : Except Abort Unit} {f : Unit → Except Abort β} (hx : ∀ e, x = .error e → ∃ c, e = .cmdError c ∧ ¬ C)
    (hf : x = .ok () → ReadsExactly m C R (f ())) : ReadsExactly m C R (x >>= f) := by
  rcases x with e | ⟨⟩
  · obtain ⟨c, rfl, hc⟩ := hx e rfl
    exact hc
  · exact hf rfl

theorem checkRange {rs : List (Nat × Nat)} {f : Unit → Except Abort β} (hC : C → ∀ r ∈ rs, r.1 + r.2 ≤ 4096)
    (hf : (∀ r ∈ rs, r.1 + r.2 ≤ 4096) → ReadsExactly m C R (f ())) : ReadsExactly m C R (Machine.checkRange rs >>= f) := by
  refine check (fun e he => ?_) fun h => hf (checkRange_eq_ok.mp h)
  obtain ⟨rfl, r, hr, hlt⟩ := checkRange_eq_error.mp he
  exact ⟨_, rfl, fun hc => absurd (hC hc r hr) (Nat.not_le.mpr hlt)⟩

theorem checkLen {n : Nat} {f : Unit → Except Abort β} (hC : C → n % 8 = 0)
    (hf : n % 8 = 0 → ReadsExactly m C R (f ())) : ReadsExactly m C R (Machine.checkLen n >>= f) := by
  refine check (fun e he => ?_) fun h => hf (checkLen_eq_ok.mp h)
  obtain ⟨rfl, hne⟩ := checkLen_eq_error.mp he
  exact ⟨_, rfl, fun hc => hne (hC hc)⟩

theorem checkState {st : HsState} {f : Unit → Except Abort β} (hC : C → st ≠ .complete ∧ st ≠ .failed)
    (hf : st ≠ .complete ∧ st ≠ .failed → ReadsExactly m C R (f ())) :
    ReadsExactly m C R (Machine.checkState st >>= f) := by
  refine check (fun e he => ?_) fun h => hf (checkState_eq_ok.mp h)
  obtain ⟨rfl, hst⟩ := checkState_eq_error.mp he
  exact ⟨_, rfl, fun hc => hst.elim (hC hc).1 (hC hc).2⟩

/-- A branch that returns at once reads nothing. -/
theorem branch {p : Prop} [Decidable p] {v : α} {y : Except Abort α} (hy : ¬ p → ReadsExactly m C R y) :
    ReadsExactly m C (fun x => ¬ p ∧ R x) (if p then Pure.pure v else y) := by
  split
  · next hp => exact (pure v).congr fun x => by simp [hp]
  · next hp => exact (hy hp).congr fun x => by simp [hp]

/-- A choice between two results reads nothing. -/
theorem choice {p : Prop} [Decidable p] {v w : α} :
    ReadsExactly m C (fun _ => False) (if p then Pure.pure v else Pure.pure w : Except Abort α) := by
  split <;> exact pure _

theorem map {r : Except Abort α} (g : α → β) (h : ReadsExactly m C R r) : ReadsExactly m C R (r.map g) := by
  rcases r with (e | a) | v <;> exact h

theorem memReadByte (a : Nat) : ReadsExactly m C (fun x => x = a) (memReadByte m a) := by
  cases h : Machine.memReadByte m a with
  | ok v =>
    rintro x rfl
    simp [memReadByte_eq_ok.mp h]
  | error e =>
    obtain ⟨hnone, rfl⟩ := memReadByte_eq_error.mp h
    exact ⟨rfl, hnone⟩

theorem memRead (a n : Nat) : ReadsExactly m C (InRegion a n) (memRead m a n) := by
  cases h : Machine.memRead m a n with
  | ok v =>
    rintro x ⟨hlo, hhi⟩
    have hx := memRead_eq_ok.mp h (x - a) (by omega)
    rw [Nat.add_sub_cancel' hlo] at hx
    simp [hx]
  | error e =>
    obtain ⟨i, hi, hnone, rfl⟩ := memRead_eq_error h
    exact ⟨⟨Nat.le_add_right a i, by omega⟩, hnone⟩

theorem memReadBlocks (a n : Nat) : ReadsExactly m C (InRegion a (8 * n)) (memReadBlocks m a n) := by
  cases h : Machine.memReadBlocks m a n with
  | ok v =>
    rintro x ⟨hlo, hhi⟩
    have hx := memRead_eq_ok.mp (memReadBlocks_eq_ok.mp h ((x - a) / 8) (by omega)) ((x - a) % 8) (by omega)
    rw [show a + 8 * ((x - a) / 8) + (x - a) % 8 = x by omega] at hx
    simp [hx]
  | error e =>
    obtain ⟨i, hi, hnone, rfl⟩ := memReadBlocks_eq_error h
    exact ⟨⟨Nat.le_add_right a i, by omega⟩, hnone⟩

end ReadsExactly

/-! ## What a transition reads (43_handshake.md R213 to R228) -/

/-- The checksum test is right exactly where the packet passes (40_packet.md R120). -/
theorem packetOk_eq_ok_true {m : Memory} {a : Nat} : packetOk m a = .ok true ↔ PacketPasses m a := by
  rw [packetOk_eq_ok]
  constructor
  · rintro ⟨l, hl, body, hbody, ck, hck, hsum⟩
    exact ⟨l, body, ck, ⟨hl, hbody, hck⟩, eq_of_beq hsum⟩
  · rintro ⟨l, body, ck, ⟨hl, hbody, hck⟩, hsum⟩
    exact ⟨l, hl, body, hbody, ck, hck, beq_iff_eq.mpr hsum⟩

/-- The bytes of a packet from the body on, once its length byte is known. -/
theorem inRegion_body_iff {m : Memory} {a : Nat} {l : Byte} (hl : memGet? m (a + 4) = some l) (x : Nat) :
    InRegion (a + 5) l.toNat x ∨ x = a + 5 + l.toNat ↔
      ∃ l', memGet? m (a + 4) = some l' ∧ InRegion (a + 5) (l'.toNat + 1) x := by
  simp only [hl, Option.some.injEq, exists_eq_left', InRegion]
  omega

theorem packetOk_reads (m : Memory) (C : Prop) (a : Nat) : ReadsExactly m C (PacketReads m a) (packetOk m a) :=
  .bind (.memReadByte _) fun _ hl => .congr (.bind (.memRead _ _) fun _ _ => .bind (.memReadByte _) fun _ _ => .pure _)
    fun x => by rw [or_false, inRegion_body_iff (memReadByte_eq_ok.mp hl)]

/-- A transition that starts with a checksum test reads the packet and, where it passes, what the rest reads. -/
theorem packetThen_reads {m : Memory} {C : Prop} {a : Nat} {R : Nat → Prop} {v : Verdict} {y : Except Abort Verdict}
    (hy : ReadsExactly m C R y) : ReadsExactly m C (fun x => PacketReads m a x ∨ PacketPasses m a ∧ R x)
      (packetOk m a >>= fun ok => if (!ok) = true then pure v else y) := by
  refine .bind (packetOk_reads m C a) fun ok hok => .congr (.branch fun _ => hy) fun x => ?_
  have hpass : PacketPasses m a ↔ ok = true := by rw [← packetOk_eq_ok_true, hok, Except.ok.injEq]
  simp [hpass]

/-- The two tables of an ACR are one region (42_mac_acr.md R180). -/
theorem sessionAcr_reads (P : Params) (m : Memory) (C : Prop) (S : Session) (key : Block) :
    ReadsExactly m C (InRegion 0x040 0x180) (sessionAcr P m S key) :=
  .congr (.bind (.memRead _ _) fun _ _ => .bind (.memRead _ _) fun _ _ => .pure _) fun x => by
    simp only [InRegion, sboxAddr, refAddr, or_false]
    omega

theorem t0_reads (P : Params) (m : Memory) (C : Prop) (S : Session) :
    ReadsExactly m C (fun x => PacketReads m 0x200 x ∨ PacketPasses m 0x200 ∧ InRegion 0x205 23 x) (t0 P m S) :=
  packetThen_reads (.congr (.bind (.memRead _ _) fun _ _ => .pure _) fun x => by rw [or_false, pkt1])

theorem t1_reads (P : Params) (m : Memory) (C : Prop) (S : Session) :
    ReadsExactly m C (fun x => PacketReads m 0x400 x ∨ PacketPasses m 0x400 ∧ (InRegion 0x000 0x40 x ∨ InRegion 0x405 28 x))
      (t1 P m S) := by
  unfold t1
  refine packetThen_reads (.congr (.bind (.memReadBlocks _ _) fun _ _ => .bind (.memRead _ _) fun _ _ =>
    .bind (.memRead _ _) fun _ _ => .bind (.memRead _ _) fun _ _ => .bind (.memRead _ _) fun _ _ =>
    .bind (.memRead _ _) fun _ _ => .choice) fun x => ?_)
  simp only [InRegion, or_false, pkt2, k1Addr, k2Addr, fsk0Addr, fsk1Addr]
  omega

/-- Byte string `rnd` of T2 is the one that `NonceAgrees` compares (43_handshake.md R218, R219). -/
theorem nonceAgrees_iff {m : Memory} {S : Session} {ct : Vector Block 4} (hct : memReadBlocks m 0x605 4 = .ok ct) :
    NonceAgrees m S ↔ S.nonce = cat16 (tcbcDec Config.params S.renc ct)[2] (tcbcDec Config.params S.renc ct)[3] := by
  have hdec : ∀ y, tripleDec Config.params S.renc y = dec3 S.renc y := tripleDec_eq_ded _ _
  have hct4 : ct = #v[ct[0], ct[1], ct[2], ct[3]] := by
    apply Vector.ext
    intro i hi
    interval_cases i <;> rfl
  rw [tcbcDec_getElem _ _ _ 2 (by decide), tcbcDec_getElem _ _ _ 3 (by decide), hdec, hdec]
  constructor
  · rintro ⟨c0, c1, c2, c3, hread, hnonce⟩
    rw [hct] at hread
    cases hread
    exact hnonce
  · intro hnonce
    exact ⟨ct[0], ct[1], ct[2], ct[3], by rw [hct, ← hct4], hnonce⟩

theorem t2_reads (m : Memory) (C : Prop) (S : Session) :
    ReadsExactly m C (fun x => PacketReads m 0x600 x ∨ (PacketPasses m 0x600 ∧ InRegion 0x605 32 x) ∨
      (PacketPasses m 0x600 ∧ NonceAgrees m S ∧ (InRegion 0x040 0x180 x ∨ InRegion 0x625 8 x))) (t2 Config.params m S) := by
  unfold t2
  refine .congr (packetThen_reads (.bind (R' := fun x => NonceAgrees m S ∧ (InRegion 0x040 0x180 x ∨ InRegion 0x625 8 x))
    (.memReadBlocks _ _) fun ct hct => .congr (.branch fun _ => .bind (sessionAcr_reads _ _ _ _ _) fun _ _ =>
      .bind (.memRead _ _) fun _ _ => .choice) fun x => ?_)) fun x => ?_
  · rw [nonceAgrees_iff hct, not_not, or_false]
    rfl
  · rw [and_or_left]
    rfl

theorem t3_reads (P : Params) (m : Memory) (C : Prop) (S : Session) :
    ReadsExactly m C (fun x => PacketReads m 0x800 x ∨ PacketPasses m 0x800 ∧ InRegion 0x805 16 x) (t3 P m S) := by
  unfold t3
  refine packetThen_reads (.congr (.bind (.memReadBlocks _ _) fun _ _ => .bind (.memRead _ _) fun _ _ =>
    .choice) fun x => ?_)
  simp only [InRegion, or_false, pkt4]
  omega

theorem t4_reads (P : Params) (m : Memory) (C : Prop) (S : Session) :
    ReadsExactly m C (fun x => PacketReads m 0xA00 x ∨ PacketPasses m 0xA00 ∧ InRegion 0xA05 16 x) (t4 P m S) := by
  unfold t4
  refine packetThen_reads (.congr (.bind (.memReadBlocks _ _) fun _ _ => .bind (.memRead _ _) fun _ _ =>
    .choice) fun x => ?_)
  simp only [InRegion, or_false, pkt5]
  omega

theorem t5_reads (P : Params) (m : Memory) (C : Prop) (S : Session) : ReadsExactly m C (InRegion 0x040 0x180) (t5 P m S) := by
  unfold t5
  refine .congr (.bind (sessionAcr_reads P m C _ _) fun _ _ => .choice) fun x => ?_
  simp only [or_false]

/-- A transition reads exactly the bytes of its rules. -/
theorem transitionBody_reads (m : Memory) (C : Prop) (S : Session) :
    ReadsExactly m C (TransitionReads m S) (transitionBody Config.params m S) := by
  unfold transitionBody TransitionReads
  cases S.hsState with
  | init => exact t0_reads _ m C S
  | identified => exact t1_reads _ m C S
  | challenged => exact t2_reads m C S
  | responseReceived => exact t3_reads _ m C S
  | verified1 => exact t4_reads _ m C S
  | responseVerified1 => exact t5_reads _ m C S
  | complete => exact .of_ok ⟨_, rfl⟩
  | failed => exact .of_ok ⟨_, rfl⟩

theorem transition_reads (m : Memory) (C : Prop) (S : Session) :
    ReadsExactly m C (TransitionReads m S) (transition Config.params m S) :=
  .congr (.bind (transitionBody_reads m C S) fun _ _ => .pure _) fun x => by rw [or_false]

/-! ## The run of HSRUN (43_handshake.md R231; log 17) -/

/-- How many transitions can still follow a state. -/
def transitionsLeft : HsState → Nat
  | .init => 6
  | .identified => 5
  | .challenged => 4
  | .responseReceived => 3
  | .verified1 => 2
  | .responseVerified1 => 1
  | .complete => 0
  | .failed => 0

theorem transitionsLeft_le (st : HsState) : transitionsLeft st ≤ 6 := by
  cases st <;> decide

theorem hsTerminal_eq_false_iff {st : HsState} : hsTerminal st = false ↔ st ≠ .complete ∧ st ≠ .failed := by
  cases st <;> simp [hsTerminal]

/-- Every transition leaves fewer of them. -/
theorem transitionsLeft_lt {P : Params} {m : Memory} {S S' : Session} (h0 : hsTerminal S.hsState = false)
    (h : transition P m S = .ok S') : transitionsLeft S'.hsState < transitionsLeft S.hsState := by
  obtain ⟨v, -, rfl⟩ := transition_eq_ok h
  cases v <;> simp only [settle] <;> revert h0 <;> cases S.hsState <;> decide

theorem runTransitions_terminal {P : Params} {m : Memory} {S : Session} (h : hsTerminal S.hsState = true) (n : Nat) :
    runTransitions P m n S = .ok S := by
  cases n with
  | zero => rfl
  | succ n => rw [runTransitions, if_pos h]

theorem runTransitions_succ {P : Params} {m : Memory} {S : Session} (h : hsTerminal S.hsState = false) (n : Nat) :
    runTransitions P m (n + 1) S = transition P m S >>= runTransitions P m n := by
  rw [runTransitions, h, if_neg Bool.false_ne_true]
  cases transition P m S <;> rfl

/-- Further fuel changes nothing once there is enough for the transitions left. -/
theorem runTransitions_fuel {P : Params} {m : Memory} : ∀ {n : Nat} {S : Session}, transitionsLeft S.hsState ≤ n →
    runTransitions P m (n + 1) S = runTransitions P m n S := by
  intro n
  induction n with
  | zero =>
    intro S hn
    have hterm : hsTerminal S.hsState = true := by revert hn; cases S.hsState <;> decide
    rw [runTransitions_terminal hterm, runTransitions_terminal hterm]
  | succ n ih =>
    intro S hn
    cases hterm : hsTerminal S.hsState with
    | true => rw [runTransitions_terminal hterm, runTransitions_terminal hterm]
    | false =>
      rw [runTransitions_succ hterm, runTransitions_succ hterm]
      cases hS : transition P m S with
      | error e => rfl
      | ok S' =>
        have hlt := transitionsLeft_lt hterm hS
        exact ih (by omega)

/-- HSSTEP reads what its transition reads. -/
theorem hsstepBody_reads (s : State) : ReadsExactly s.dmem (s.session.hsState ≠ .complete ∧ s.session.hsState ≠ .failed)
    (TransitionReads s.dmem s.session) (hsstepBody Config.params s) :=
  .checkState id fun _ => .congr (.bind (transition_reads _ _ _) fun _ _ => .pure _) fun x => by rw [or_false]

/-- Outside a terminal state HSSTEP completes exactly where its transition gives a session, and with that session. -/
theorem exec_hsstep_session_iff {s : State} {S : Session} (h0 : s.session.hsState ≠ .complete ∧ s.session.hsState ≠ .failed) :
    (∃ u, exec .hsstep s = .next u ∧ u.session = S) ↔ transition Config.params s.dmem s.session = .ok S := by
  constructor
  · rintro ⟨u, hu, rfl⟩
    rcases exec_eq_next hu with ⟨t, ht, rfl⟩ | ⟨e, -, he, -⟩
    · obtain ⟨-, S, hS, rfl⟩ := hsstepBody_eq_ok ht
      exact hS
    · have hreads : ReadsExactly s.dmem _ _ (commandBody .hsstep s) := hsstepBody_reads s
      rw [he] at hreads
      exact absurd h0 hreads
  · intro h
    obtain ⟨v, hv, rfl⟩ := transition_eq_ok h
    exact ⟨_, exec_hsstep_of h0 hv, rfl⟩

/-- HSRUN reads what its first transition reads and what it reads from the session that this transition gives. -/
theorem commandReads_hsrun_iff {s : State} {x : Nat} : CommandReads .hsrun s x ↔ TransitionReads s.dmem s.session x ∨
    ∃ S, hsTerminal s.session.hsState = false ∧ transition Config.params s.dmem s.session = .ok S ∧
      CommandReads .hsrun (withSession S s) x := by
  constructor
  · rintro ⟨n, T, ⟨h0, hstep⟩, hx⟩
    cases n with
    | zero => exact .inl (h0 ▸ hx)
    | succ n =>
      obtain ⟨hc, hf, hu⟩ := hstep 0 (Nat.succ_pos n)
      have hT : transition Config.params s.dmem (T 0) = .ok (T 1) :=
        (exec_hsstep_session_iff (s := withSession (T 0) s) ⟨hc, hf⟩).mp hu
      rw [h0] at hc hf hT
      exact .inr ⟨T 1, hsTerminal_eq_false_iff.mpr ⟨hc, hf⟩, hT, n, fun j => T (j + 1),
        ⟨rfl, fun j hj => hstep (j + 1) (Nat.succ_lt_succ hj)⟩, hx⟩
  · rintro (hx | ⟨S, hterm, hS, n, T, ⟨rfl, hstep⟩, hx⟩)
    · exact ⟨0, fun _ => s.session, ⟨rfl, fun j hj => absurd hj (Nat.not_lt_zero j)⟩, hx⟩
    · have h0 := hsTerminal_eq_false_iff.mp hterm
      refine ⟨n + 1, fun | 0 => s.session | j + 1 => T j, ⟨rfl, fun j hj => ?_⟩, hx⟩
      cases j with
      | zero => exact ⟨h0.1, h0.2, (exec_hsstep_session_iff h0).mpr hS⟩
      | succ j => exact hstep j (Nat.lt_of_succ_lt_succ hj)

/-- In a terminal state neither HSSTEP nor HSRUN reads anything (43_handshake.md R229). -/
theorem not_transitionReads_of_terminal {m : Memory} {S : Session} (h : hsTerminal S.hsState = true) (x : Nat) :
    ¬ TransitionReads m S x := by
  unfold TransitionReads
  revert h
  cases S.hsState <;> simp [hsTerminal]

theorem not_commandReads_hsrun_of_terminal {s : State} (h : hsTerminal s.session.hsState = true) (x : Nat) :
    ¬ CommandReads .hsrun s x := by
  rw [commandReads_hsrun_iff]
  simp [h, not_transitionReads_of_terminal h x]

/-- A run with enough fuel reads exactly what HSRUN reads. -/
theorem runTransitions_reads (C : Prop) {n : Nat} : ∀ {s : State}, transitionsLeft s.session.hsState ≤ n →
    ReadsExactly s.dmem C (CommandReads .hsrun s) (runTransitions Config.params s.dmem n s.session) := by
  have hterminal : ∀ {s : State} {n}, hsTerminal s.session.hsState = true →
      ReadsExactly s.dmem C (CommandReads .hsrun s) (runTransitions Config.params s.dmem n s.session) := fun h =>
    .congr (.of_ok ⟨_, runTransitions_terminal h _⟩) fun x => by simp [not_commandReads_hsrun_of_terminal h x]
  induction n with
  | zero =>
    intro s hn
    refine hterminal ?_
    revert hn
    cases s.session.hsState <;> decide
  | succ n ih =>
    intro s hn
    cases hterm : hsTerminal s.session.hsState with
    | true => exact hterminal hterm
    | false =>
      rw [runTransitions_succ hterm]
      refine .congr (.bind (R' := fun x => ∃ S, hsTerminal s.session.hsState = false ∧
        transition Config.params s.dmem s.session = .ok S ∧ CommandReads .hsrun (withSession S s) x)
        (transition_reads _ _ _) fun S hS => ?_) fun x => commandReads_hsrun_iff.symm
      have hlt := transitionsLeft_lt hterm hS
      exact .congr (ih (s := withSession S s) (Nat.le_of_lt_succ (Nat.lt_of_lt_of_le hlt hn))) fun x => by
        simp [hterm, hS]

/-- HSRUN faults exactly where its run does. -/
theorem exec_hsrun_eq_fault {s : State} {f : Fault} : exec .hsrun s = .fault f ↔
    (s.session.hsState ≠ .complete ∧ s.session.hsState ≠ .failed) ∧
      ∃ a, runTransitions Config.params s.dmem 6 s.session = .error (.unwritten a) ∧ f = .unwrittenRead .hsrun a := by
  rw [exec_eq_finish, finish_eq_fault, ← checkState_eq_ok]
  simp only [commandBody, hsrunBody, bind_eq_error, checkState_eq_error]
  constructor
  · rintro ⟨a, ⟨⟨⟩, -⟩ | ⟨⟨⟩, hstate, hrun | ⟨S, -, ⟨⟩⟩⟩, rfl⟩
    exact ⟨hstate, a, hrun, rfl⟩
  · rintro ⟨hstate, a, hrun, rfl⟩
    exact ⟨a, .inr ⟨(), hstate, .inl hrun⟩, rfl⟩

/-- The bytes that stop HSRUN stop it wherever HSSTEPs before it lead: a fault from the session that HSSTEP gives is the fault from
the session before (43_handshake.md R231). -/
theorem exec_hsrun_fault_of_hsstep {s u : State} {f : Fault} (hu : exec .hsstep s = .next u) (hf : exec .hsrun u = .fault f) :
    exec .hsrun s = .fault f := by
  obtain ⟨hstate, a, hrun, rfl⟩ := exec_hsrun_eq_fault.mp hf
  rcases exec_eq_next hu with ⟨t, ht, rfl⟩ | ⟨e, -, -, rfl⟩
  · obtain ⟨h0, S, hS, rfl⟩ := hsstepBody_eq_ok ht
    have hterm := hsTerminal_eq_false_iff.mpr h0
    have hleft : transitionsLeft S.hsState ≤ 5 := by
      have hlt := transitionsLeft_lt hterm hS
      have hle := transitionsLeft_le s.session.hsState
      omega
    refine exec_hsrun_eq_fault.mpr ⟨h0, a, ?_, rfl⟩
    rw [runTransitions_succ hterm, hS, ok_bind, ← runTransitions_fuel hleft]
    exact hrun
  · exact exec_hsrun_eq_fault.mpr ⟨hstate, a, hrun, rfl⟩

/-! ## What a command reads (30_encoding.md R94) -/

/-- The checks of command `i` pass: LEN, the regions, CKSUM's second region where its length byte is written, and the state check
(60_exceptions.md R262; 40_packet.md R121). -/
structure ChecksPass (i : Instr) (s : State) : Prop where
  len : readsLen i = true → s.len.toNat % 8 = 0
  regions : ∀ r ∈ operandRegions i s, r.1 + r.2 ≤ 4096
  packet : i = .cksum → ∀ l, memGet? s.dmem (s.src.toNat + 4) = some l → s.src.toNat + 6 + l.toNat ≤ 4096
  state : i = .hsstep ∨ i = .hsrun → s.session.hsState ≠ .complete ∧ s.session.hsState ≠ .failed

/-- A legal length and fitting regions are enough where an unwritten byte is read: CKSUM reads one of its second region only where
that region fits, and in a terminal state nothing is read. -/
theorem checksPass_of_reads {i : Instr} {s : State} {x : Nat} (hlen : readsLen i = true → s.len.toNat % 8 = 0)
    (hregions : ∀ r ∈ operandRegions i s, r.1 + r.2 ≤ 4096) (hx : CommandReads i s x) (hnone : memGet? s.dmem x = none) :
    ChecksPass i s := by
  refine ⟨hlen, hregions, ?_, ?_⟩
  · rintro rfl l hl
    rcases hx with rfl | ⟨l', hl', hfits, -⟩
    · rw [hnone] at hl
      cases hl
    · rw [hl] at hl'
      cases hl'
      exact hfits
  · rintro (rfl | rfl)
    · exact hsTerminal_eq_false_iff.mp (Bool.eq_false_iff.mpr fun h => not_transitionReads_of_terminal h x hx)
    · exact hsTerminal_eq_false_iff.mp (Bool.eq_false_iff.mpr fun h => not_commandReads_hsrun_of_terminal h x hx)

theorem cksumBody_reads (s : State) : ReadsExactly s.dmem (ChecksPass .cksum s) (CommandReads .cksum s) (cksumBody s) := by
  refine .checkRange (fun hc => hc.regions) fun _ => .bind (R' := fun x => ∃ l, memGet? s.dmem (s.src.toNat + 4) = some l ∧
    s.src.toNat + 6 + l.toNat ≤ 4096 ∧ InRegion (s.src.toNat + 5) (l.toNat + 1) x) (.memReadByte _) fun l hl => ?_
  have hl : memGet? s.dmem (s.src.toNat + 4) = some l := memReadByte_eq_ok.mp hl
  refine .checkRange (fun hc => by simpa [srcAddr, Nat.add_assoc] using hc.packet rfl l hl) fun hfits => ?_
  have hfits : s.src.toNat + 6 + l.toNat ≤ 4096 := by simpa [srcAddr, Nat.add_assoc] using hfits
  refine .congr (.bind (.memRead _ _) fun _ _ => .bind (.memReadByte _) fun _ _ => .pure _) fun x => ?_
  simp only [or_false, hl, Option.some.injEq, exists_eq_left', hfits, true_and, InRegion, srcAddr]
  omega

theorem blkBody_reads {i : Instr} {s : State} (f : Block → Block → Block)
    (hregions : operandRegions i s = [(s.src.toNat, 8), (s.key.toNat, 8), (s.dst.toNat, 8)]) :
    ReadsExactly s.dmem (ChecksPass i s) (fun x => InRegion s.key.toNat 8 x ∨ InRegion s.src.toNat 8 x) (blkBody f s) := by
  refine .checkRange (fun hc => hregions ▸ hc.regions) fun _ => .congr (.bind (.memRead _ _) fun _ _ =>
    .bind (.memRead _ _) fun _ _ => .pure _) fun x => ?_
  rw [or_false, keyAddr, srcAddr]

theorem tcbcBody_reads {i : Instr} {s : State} (f : (n : Nat) → Bytes 16 → Vector Block n → Vector Block n)
    (hlen : readsLen i = true)
    (hregions : operandRegions i s = [(s.src.toNat, s.len.toNat), (s.key.toNat, 16), (s.dst.toNat, s.len.toNat)]) :
    ReadsExactly s.dmem (ChecksPass i s) (fun x => InRegion s.key.toNat 16 x ∨ InRegion s.src.toNat s.len.toNat x)
      (tcbcBody f s) := by
  refine .checkLen (fun hc => hc.len hlen) fun hn => .checkRange (fun hc => hregions ▸ hc.regions) fun _ =>
    .congr (.bind (.memRead _ _) fun _ _ => .bind (.memReadBlocks _ _) fun _ _ => .pure _) fun x => ?_
  rw [or_false, Nat.mul_div_cancel' (Nat.dvd_of_mod_eq_zero hn), keyAddr, srcAddr, lenCount]


theorem macBody_reads {i : Instr} {s : State} (P : Params) (mode : MacMode) (saltEn : Bool) (hlen : readsLen i = true)
    (hregions : operandRegions i s = [(s.src.toNat, s.len.toNat), (s.key.toNat, 16)] ++
      (if saltEn then [(s.aux.toNat, 8)] else []) ++ [(s.dst.toNat, if saltEn then 16 else 8)]) :
    ReadsExactly s.dmem (ChecksPass i s) (fun x => InRegion s.key.toNat 16 x ∨ InRegion s.src.toNat s.len.toNat x ∨
      (saltEn = true ∧ InRegion s.aux.toNat 8 x)) (macBody P mode saltEn s) := by
  refine .checkLen (fun hc => hc.len hlen) fun hn => .checkRange (fun hc => hregions ▸ hc.regions) fun _ => ?_
  cases saltEn
  · refine .congr (.bind (.memRead _ _) fun _ _ => .bind (.memReadBlocks _ _) fun _ _ => .of_ok ?_) fun x => ?_
    · simp [mac_none_fst]
    · rw [Nat.mul_div_cancel' (Nat.dvd_of_mod_eq_zero hn)]
      simp [keyAddr, srcAddr, lenCount]
  · refine .congr (.bind (.memRead _ _) fun _ _ => .bind (.memReadBlocks _ _) fun _ _ =>
      .bind (.map some (.memRead _ _)) fun _ _ => .of_ok ?_) fun x => ?_
    · dsimp only
      split <;> exact ⟨_, rfl⟩
    · rw [Nat.mul_div_cancel' (Nat.dvd_of_mod_eq_zero hn)]
      simp [keyAddr, srcAddr, auxAddr, lenCount]

theorem acrBody_reads (P : Params) (s : State) : ReadsExactly s.dmem (ChecksPass .acr s) (CommandReads .acr s) (acrBody P s) := by
  refine .checkRange (fun hc => hc.regions) fun _ => .congr (.bind (.memRead _ _) fun _ _ => .bind (.memRead _ _) fun _ _ =>
    .bind (.memRead _ _) fun _ _ => .bind (.memRead _ _) fun _ _ => .bind (.memRead _ _) fun _ _ => .pure _) fun x => ?_
  simp only [CommandReads, InRegion, or_false, srcAddr, keyAddr, auxAddr, sboxAddr, refAddr]
  omega

/-- Every command whose checks pass reads exactly the bytes of `CommandReads`. -/
theorem commandBody_reads (i : Instr) (s : State) :
    ReadsExactly s.dmem (ChecksPass i s) (CommandReads i s) (commandBody i s) := by
  cases i
  case cksum => exact cksumBody_reads s
  case norm =>
    refine .checkRange (fun hc => hc.regions) fun _ => .congr (.bind (.memRead _ _) fun _ _ => .pure _) fun x => ?_
    rw [or_false]
    rfl
  case blkD => exact blkBody_reads _ rfl
  case blkE => exact blkBody_reads _ rfl
  case tcbcD => exact tcbcBody_reads _ rfl rfl
  case tcbcE => exact tcbcBody_reads _ rfl rfl
  case macV => exact .congr (macBody_reads _ .ver false rfl rfl) fun x => by simp [CommandReads]
  case macG => exact .congr (macBody_reads _ .gen false rfl rfl) fun x => by simp [CommandReads]
  case macVS => exact .congr (macBody_reads _ .ver true rfl rfl) fun x => by simp [CommandReads]
  case macGS => exact .congr (macBody_reads _ .gen true rfl rfl) fun x => by simp [CommandReads]
  case acr => exact acrBody_reads _ s
  case hsrst => exact .of_ok ⟨_, rfl⟩
  case hsstep => exact (hsstepBody_reads s).weaken fun hc => hc.state (.inl rfl)
  case hsrun =>
    exact .checkState (fun hc => hc.state (.inr rfl)) fun _ => .congr (.bind (runTransitions_reads _ (transitionsLeft_le _))
      fun _ _ => .pure _) fun x => by rw [or_false]

end Sys2Proof.Machine
end

section
/-! PROOFS. The statements of 20_memory.md, by tier. -/

namespace Sys2Proof.Machine

/-! ## Events -/

/-- Settles O5. -/
theorem stepTakesNextEvent : Obligations.StepTakesNextEvent := by
  intro s es op
  refine ⟨fun h => ?_, fun h => ?_, fun hb h => ?_, fun hb h => ?_⟩
  · simp [step, nextEvent, h, eventStep, withSchedule]
  · simp [step, nextEvent, h, eventStep, withSchedule]
  · rw [step_engine_head h]
    exact engineStep_idle hb
  · rw [step_schedule_empty h]
    exact engineStep_idle hb

/-! ## The host's accesses -/

/-- Settles O53. -/
theorem busyRefusesHostAccess : Obligations.BusyRefusesHostAccess := fun _ _ v hb =>
  ⟨fun ha => busStep_write8_dmem_busy ha hb v, fun ha => busStep_read8_busy ha hb⟩

/-- Settles O50. -/
theorem refusedWidthSetsBerr : Obligations.RefusedWidthSetsBerr := by
  refine fun s op => ⟨fun h => ?_, fun h => berr_of_not_widthRefused h⟩
  rw [busStep_of_widthRefused h, widthRefused_eq, Bool.and_comm]
  rfl

/-- Settles O51. -/
theorem sessionWindowReads : Obligations.SessionWindowReads := by
  refine fun s a i v ha hi => ⟨fun hb => ?_, busStep_write8_window (by omega) (by omega) v s⟩
  rw [busStep_read8_window ha hi hb, windowByte_eq]
  rfl

/-- Settles O52: the read after the write finds the byte just stored. -/
theorem hostDmemAccess : Obligations.HostDmemAccess := by
  refine fun s a v ha hb => ⟨⟨memSet s.dmem a.toNat v, busStep_write8_dmem_idle ha hb v, storedAt_memSet _ _ _, ?_⟩,
    fun b hw => busStep_read8_written ha hb hw, fun hw => busStep_read8_unwritten ha hb hw⟩
  exact busStep_read8_written (s := withDmem (memSet s.dmem a.toNat v) s) ha hb
    (by rw [withDmem_dmem, memGet?_memSet, if_pos rfl])

/-! ## Interleaving -/

/-- Settles O54: the fields that the transaction can touch are none of those that the engine reads or that are compared. -/
theorem resultsAreIndependentOfInterleaving : Obligations.ResultsAreIndependentOfInterleaving := by
  intro s op hs hb hop
  obtain ⟨o, b, ie, d, n, e⟩ := busStep_eq_hostTouched hs hb hop
  obtain ⟨hfault, hnext⟩ := engineStep_hostTouched o b ie d n s hb
  rw [e]
  exact ⟨hfault, fun t ht => ⟨_, hnext t ht, rfl, rfl, rfl, rfl, rfl, rfl, rfl, rfl, rfl, rfl, rfl, rfl⟩⟩

/-! ## Unwritten bytes -/

/-- Settles O12: the first unwritten byte of the key, or of the block once the key is written. -/
theorem blkFaultsOnUnwrittenByte : Obligations.BlkFaultsOnUnwrittenByte := by
  intro s n hn hsrc hkey hdst
  have hfits : checkRange [(srcAddr s, 8), (keyAddr s, 8), (dstAddr s, 8)] = .ok () :=
    checkRange_eq_ok.mpr (by simpa using ⟨hsrc, hkey, hdst⟩)
  constructor
  · intro hw hnone
    have hread := memRead_eq_unwritten hw hn hnone
    simp [exec_eq_finish, commandBody, blkBody_of_key_error hfits hread, finish]
  · intro hk hw hnone
    obtain ⟨k, hkread⟩ := memRead_of_written hk
    have hread := memRead_eq_unwritten hw hn hnone
    simp [exec_eq_finish, commandBody, blkBody_of_src_error hfits hkread hread, finish]

/-- Settles O11: each clause reads off how the body of the command ended. -/
theorem commandsStopOnlyOnUnwrittenBytes : Obligations.CommandsStopOnlyOnUnwrittenBytes := by
  refine ⟨fun i s => ⟨fun r => ?_, fun f hf => ?_⟩, fun i s x hlen hregions hx hnone => ?_,
    fun s u f => exec_hsrun_fault_of_hsstep⟩
  · rw [exec_eq_finish]
    exact finish_ne_refused
  · rw [exec_eq_finish, finish_eq_fault] at hf
    obtain ⟨a, ha, rfl⟩ := hf
    have hreads := commandBody_reads i s
    rw [ha] at hreads
    obtain ⟨hread, hnone⟩ := hreads
    refine ⟨a, hread, ?_, hnone, rfl⟩
    rcases commandBody_aborts i s _ ha with ⟨c, -, ⟨⟩⟩ | ⟨b, hb, -, ⟨⟩⟩
    exact hb
  · have hreads := commandBody_reads i s
    have hpass := checksPass_of_reads hlen hregions hx hnone
    rw [exec_eq_finish]
    generalize commandBody i s = r at hreads
    rcases r with (e | a) | t
    · exact absurd hpass hreads
    · obtain ⟨hread, hunwritten⟩ := hreads
      exact ⟨a, hread, hunwritten, rfl⟩
    · exact absurd hnone (hreads x hx)

end Sys2Proof.Machine
end

-- The statements of 30_encoding.md: laws, then the settlements
section
/-! SUPPORT. A command word as its fields and back, when the decoder answers a command, which words are legal, and the DMEM bytes
outside a command's output region. -/

namespace Sys2Proof.Machine

/-! ## A command word and its fields (30_encoding.md R90) -/

/-- The value of a word with given fields. -/
theorem toNat_toWord (c : CmdWord) :
    c.toWord.toNat = c.op.toNat + 64 * c.mode.toNat + 128 * c.saltEn.toNat + 256 * c.rsvd.toNat := by
  simp only [CmdWord.toWord, toNat_append_eq_add, BitVec.toNat_ofBool]
  omega

/-- The fields of a word, by value: OP is bits 5 to 0, MODE bit 6, SALT_EN bit 7, RSVD the rest. -/
theorem toNat_fields_ofWord (w : Word) :
    (CmdWord.ofWord w).op.toNat = w.toNat % 64 ∧ (CmdWord.ofWord w).mode = (w.toNat / 64 % 2 == 1) ∧
      (CmdWord.ofWord w).saltEn = (w.toNat / 128 % 2 == 1) ∧ (CmdWord.ofWord w).rsvd.toNat = w.toNat / 256 := by
  refine ⟨by simp [CmdWord.ofWord], getLsbD_eq_div_mod w 6, getLsbD_eq_div_mod w 7, ?_⟩
  have hw := w.isLt
  simp only [CmdWord.ofWord, BitVec.extractLsb'_toNat, Nat.shiftRight_eq_div_pow]
  omega

/-- The four fields are all there is of a word. -/
theorem toWord_ofWord (w : Word) : (CmdWord.ofWord w).toWord = w := by
  obtain ⟨hop, hmode, hsalt, hrsvd⟩ := toNat_fields_ofWord w
  have hbit : ∀ n : Nat, (n % 2 == 1).toNat = n % 2 := fun n => by
    rcases Nat.mod_two_eq_zero_or_one n with h | h <;> rw [h] <;> rfl
  apply BitVec.eq_of_toNat_eq
  rw [toNat_toWord, hop, hmode, hsalt, hrsvd, hbit, hbit]
  omega

/-! ## The decoder (30_encoding.md R91, R93) -/

/-- The word of a command has the fields of its row, and they pass the four checks of R96. -/
theorem wordIsLegal (i : Instr) : Laws.WordIsLegal.Statement i := by
  cases i
  case cksum => exact Laws.WordIsLegal.cksum
  case norm => exact Laws.WordIsLegal.norm
  case blkD => exact Laws.WordIsLegal.blkD
  case blkE => exact Laws.WordIsLegal.blkE
  case tcbcD => exact Laws.WordIsLegal.tcbcD
  case tcbcE => exact Laws.WordIsLegal.tcbcE
  case macV => exact Laws.WordIsLegal.macV
  case macG => exact Laws.WordIsLegal.macG
  case macVS => exact Laws.WordIsLegal.macVS
  case macGS => exact Laws.WordIsLegal.macGS
  case acr => exact Laws.WordIsLegal.acr
  case hsrst => exact Laws.WordIsLegal.hsrst
  case hsstep => exact Laws.WordIsLegal.hsstep
  case hsrun => exact Laws.WordIsLegal.hsrun

/-- The word of a command has the fields of its row. -/
theorem ofWord_encode (i : Instr) : CmdWord.ofWord (encode i) = i.fields := (wordIsLegal i).1

/-- A word has the fields of a command's row exactly when it is that command's word. -/
theorem ofWord_eq_fields_iff {w : Word} {i : Instr} : CmdWord.ofWord w = i.fields ↔ w = encode i := by
  constructor
  · intro h
    rw [encode, ← h, toWord_ofWord]
  · rintro rfl
    exact ofWord_encode i

/-- The row that fields pick is the one whose fields they are. -/
theorem decodeRow_eq_ok_iff {op : BitVec 6} {mode saltEn : Bool} {i : Instr} :
    decodeRow op.toNat mode saltEn = .ok i ↔ (⟨0, saltEn, mode, op⟩ : CmdWord) = i.fields := by
  constructor
  · intro h
    have hop : ∀ n : Nat, op.toNat = n → op = BitVec.ofNat 6 n := by rintro n rfl; simp
    unfold decodeRow at h
    split at h
    case h_15 => split_ifs at h
    all_goals
      cases h
      rw [hop _ ‹_›]
      rfl
  · intro h
    have hop : op = i.fields.op := congrArg CmdWord.op h
    have hmode : mode = i.fields.mode := congrArg CmdWord.mode h
    have hsalt : saltEn = i.fields.saltEn := congrArg CmdWord.saltEn h
    rw [hop, hmode, hsalt]
    cases i <;> rfl

/-- A word decodes to a command exactly when its fields are those of the command's row: RSVD is zero in every row. -/
theorem decode_eq_ok_iff_fields {w : Word} {i : Instr} : decode w = .ok i ↔ CmdWord.ofWord w = i.fields := by
  have hrow : i.fields.rsvd = 0 := by cases i <;> rfl
  by_cases hrsvd : (CmdWord.ofWord w).rsvd = 0
  · simp only [decode, hrsvd, ne_eq, not_true_eq_false, if_false, decodeRow_eq_ok_iff]
    rw [← hrsvd]
  · have hne : CmdWord.ofWord w ≠ i.fields := fun h => hrsvd (h ▸ hrow)
    simp only [decode, ne_eq, hrsvd, not_false_eq_true, if_true, reduceCtorEq, hne]

/-- A word decodes to a command exactly when it is that command's word. -/
theorem decode_eq_ok_iff {w : Word} {i : Instr} : decode w = .ok i ↔ w = encode i :=
  decode_eq_ok_iff_fields.trans ofWord_eq_fields_iff

/-! ## Legal words (30_encoding.md R93, R96) -/

/-- The commands in the order of the table of R93. -/
def tableCommands : List Instr :=
  [.cksum, .norm, .blkD, .blkE, .tcbcD, .tcbcE, .macV, .macG, .macVS, .macGS, .acr, .hsrst, .hsstep, .hsrun]

/-- The table lists every command. -/
theorem mem_tableCommands (i : Instr) : i ∈ tableCommands := by cases i <;> decide

/-- A word decodes to some command exactly when its value is that of a word of the table. -/
theorem exists_decode_iff_mem_table {w : Word} :
    (∃ i, decode w = .ok i) ↔ w.toNat ∈ tableCommands.map fun i => (encode i).toNat := by
  simp only [decode_eq_ok_iff, List.mem_map, mem_tableCommands, true_and, BitVec.toNat_inj, eq_comm (a := w)]

/-- Fields that pass the four checks of R96 are those of a row: OP 1 to 9 without MODE and SALT_EN, 3 to 5 with MODE alone, 5 with
SALT_EN. -/
theorem exists_fields_of_wf {c : CmdWord} (h : c.wf = true) : ∃ i : Instr, c = i.fields := by
  obtain ⟨rsvd, saltEn, mode, op⟩ := c
  simp only [CmdWord.wf, CmdWord.rsvdOk, CmdWord.opOk, CmdWord.modeOk, CmdWord.saltOk, Bool.and_eq_true, beq_iff_eq,
    decide_eq_true_eq] at h
  obtain ⟨⟨⟨rfl, hlo, hhi⟩, hmode⟩, hsalt⟩ := h
  suffices hrow : ∃ i, decodeRow op.toNat mode saltEn = .ok i from hrow.imp fun i => decodeRow_eq_ok_iff.mp
  generalize op.toNat = n at *
  match mode, saltEn with
  | false, false => interval_cases n <;> exact ⟨_, rfl⟩
  | true, false =>
    obtain ⟨hlo, hhi⟩ : 3 ≤ n ∧ n ≤ 5 := by simpa using hmode
    interval_cases n <;> exact ⟨_, rfl⟩
  | false, true =>
    obtain rfl : n = 5 := by simpa using hsalt
    exact ⟨.macVS, rfl⟩
  | true, true =>
    obtain rfl : n = 5 := by simpa using hsalt
    exact ⟨.macGS, rfl⟩

/-- A word decodes to some command exactly when its fields pass the four checks of R96. -/
theorem exists_decode_iff_wf {w : Word} : (∃ i, decode w = .ok i) ↔ (CmdWord.ofWord w).wf = true := by
  constructor
  · rintro ⟨i, h⟩
    rw [decode_eq_ok_iff_fields.mp h]
    exact (wordIsLegal i).2
  · intro h
    obtain ⟨i, hi⟩ := exists_fields_of_wf h
    exact ⟨i, decode_eq_ok_iff_fields.mpr hi⟩

/-- The four checks of R96 by the value of the word. -/
theorem wf_ofWord_iff {w : Word} : (CmdWord.ofWord w).wf = true ↔
    w.toNat / 256 = 0 ∧ (1 ≤ w.toNat % 64 ∧ w.toNat % 64 ≤ 9) ∧
      (w.toNat / 64 % 2 = 1 → 3 ≤ w.toNat % 64 ∧ w.toNat % 64 ≤ 5) ∧ (w.toNat / 128 % 2 = 1 → w.toNat % 64 = 5) := by
  obtain ⟨hop, hmode, hsalt, hrsvd⟩ := toNat_fields_ofWord w
  have hzero : (CmdWord.ofWord w).rsvd = 0 ↔ w.toNat / 256 = 0 := by rw [← hrsvd, ← BitVec.toNat_inj]; rfl
  simp only [CmdWord.wf, CmdWord.rsvdOk, CmdWord.opOk, CmdWord.modeOk, CmdWord.saltOk, Bool.and_eq_true, Bool.or_eq_true,
    Bool.not_eq_true', beq_iff_eq, beq_eq_false_iff_ne, decide_eq_true_eq, hop, hmode, hsalt, hzero, imp_iff_not_or, and_assoc]

/-! ## Illegal words (30_encoding.md R96, R97) -/

/-- A pending command whose word is illegal takes E_ILLEGAL. -/
theorem engineStep_of_illegal {s : State} (hb : s.status.busy = true) (hd : ∀ i, decode s.latch ≠ .ok i) :
    engineStep s = .next (takeError .illegal s) := by
  cases hl : decode s.latch with
  | ok i => exact absurd hl (hd i)
  | error e => simp [engineStep, hb, decodeLatch, hl]

/-! ## Outside the output region (30_encoding.md R94) -/

/-- Every byte outside the `n` bytes from `a` on reads the same in `m'` as in `m`. -/
def SameOutside (a n : Nat) (m m' : Memory) : Prop := ∀ x, x < a ∨ a + n ≤ x → memGet? m' x = memGet? m x

/-- Memory that was not written. -/
theorem SameOutside.refl (a n : Nat) (m : Memory) : SameOutside a n m m := fun _ _ => rfl

/-- Two writes, one after the other. -/
theorem SameOutside.trans {a n : Nat} {m m' m'' : Memory} (h : SameOutside a n m m') (h' : SameOutside a n m' m'') :
    SameOutside a n m m'' := fun x hx => (h' x hx).trans (h x hx)

/-- `MemWrite` within a region changes nothing outside it. -/
theorem sameOutside_memWrite {a n b k : Nat} (hlo : a ≤ b) (hhi : b + k ≤ a + n) (m : Memory) (v : Bytes k) :
    SameOutside a n m (memWrite m b v) := fun x hx => by
  rw [memGet?_memWrite, dif_neg (by omega)]

/-- A write of `n` blocks changes nothing outside their 8n bytes. -/
theorem sameOutside_memWriteBlocks {n : Nat} (m : Memory) (a : Nat) (v : Vector Block n) :
    SameOutside a (8 * n) m (memWriteBlocks m a v) := fun x hx => by
  rw [memGet?_memWriteBlocks, dif_neg (by omega)]

/-- BLK writes 8 bytes at DST (41_cipher.md R145, R146). -/
theorem blkBody_sameOutside {f : Block → Block → Block} {s u : State} (h : blkBody f s = .ok u) :
    SameOutside s.dst.toNat 8 s.dmem u.dmem := by
  obtain ⟨-, k, -, x, -, rfl⟩ := blkBody_eq_ok h
  exact sameOutside_memWrite le_rfl le_rfl _ _

/-- TCBC writes LEN bytes at DST: its blocks are all of LEN, a multiple of 8 (41_cipher.md R147, R148). -/
theorem tcbcBody_sameOutside {f : (n : Nat) → Bytes 16 → Vector Block n → Vector Block n} {s u : State}
    (h : tcbcBody f s = .ok u) : SameOutside s.dst.toNat s.len.toNat s.dmem u.dmem := by
  obtain ⟨hlen, -, k, -, p, -, rfl⟩ := tcbcBody_eq_ok h
  have hblocks : 8 * (s.len.toNat / 8) = s.len.toNat := by omega
  simpa only [hblocks, withDmem_dmem] using sameOutside_memWriteBlocks s.dmem s.dst.toNat (f (s.len.toNat / 8) k p)

/-- A MAC command writes the MAC at DST and, with a salt, the salt after it (42_mac_acr.md R174 to R177). -/
theorem macBody_sameOutside {P : Params} {mode : MacMode} {saltEn : Bool} {s u : State} (h : macBody P mode saltEn s = .ok u) :
    SameOutside s.dst.toNat (if saltEn then 16 else 8) s.dmem u.dmem := by
  cases saltEn with
  | false =>
    obtain ⟨-, -, k, -, d, -, rfl⟩ := macBody_false_eq_ok h
    exact sameOutside_memWrite le_rfl le_rfl _ _
  | true =>
    obtain ⟨-, -, k, -, d, -, x, -, y, -, rfl⟩ := macBody_true_eq_ok h
    exact (sameOutside_memWrite le_rfl (by simp) _ _).trans (sameOutside_memWrite (by simp) (by simp) _ _)

/-- A command's body changes DMEM only in the command's output region. -/
theorem commandBody_sameOutside {i : Instr} {s u : State} (h : commandBody i s = .ok u) :
    SameOutside (outputRegion i s).1 (outputRegion i s).2 s.dmem u.dmem := by
  cases i
  case cksum =>
    obtain ⟨l, -, -, body, -, ck, -, rfl⟩ := cksumBody_eq_ok h
    exact .refl _ _ _
  case norm =>
    obtain ⟨-, b, -, rfl⟩ := normBody_eq_ok h
    rw [withDmem_dmem]
    exact sameOutside_memWrite le_rfl le_rfl _ _
  case blkD => exact blkBody_sameOutside h
  case blkE => exact blkBody_sameOutside h
  case tcbcD => exact tcbcBody_sameOutside h
  case tcbcE => exact tcbcBody_sameOutside h
  case macV => exact macBody_sameOutside h
  case macG => exact macBody_sameOutside h
  case macVS => exact macBody_sameOutside h
  case macGS => exact macBody_sameOutside h
  case acr =>
    obtain ⟨-, v, rfl⟩ := acrBody_eq_ok h
    exact sameOutside_memWrite le_rfl le_rfl _ _
  case hsrst =>
    simp only [commandBody, hsrstBody, Except.ok.injEq] at h
    subst h
    exact .refl _ _ _
  case hsstep =>
    obtain ⟨-, S, -, rfl⟩ := hsstepBody_eq_ok h
    exact .refl _ _ _
  case hsrun =>
    obtain ⟨-, S, -, rfl⟩ := hsrunBody_eq_ok h
    exact .refl _ _ _

/-- A command changes DMEM only in its output region; one that takes a command error changes none of it. -/
theorem exec_sameOutside {i : Instr} {s t : State} (h : exec i s = .next t) :
    SameOutside (outputRegion i s).1 (outputRegion i s).2 s.dmem t.dmem := by
  rcases exec_eq_next h with ⟨u, hu, rfl⟩ | ⟨e, -, -, rfl⟩
  · rw [complete_dmem]
    exact commandBody_sameOutside hu
  · exact .refl _ _ _

end Sys2Proof.Machine
end

section
/-! PROOFS. The statements of 30_encoding.md, by tier. -/

namespace Sys2Proof.Machine

/-! ## Words and commands -/

/-- Settles O1: a word is its fields, and the decoder answers the row whose fields they are. -/
theorem decodeIsInverseOfEncode : Obligations.DecodeIsInverseOfEncode := fun _ _ => decode_eq_ok_iff

/-- Settles O3: the legal words are the words of the table, and those whose fields pass the four checks. -/
theorem illegalWordsRaiseError : Obligations.IllegalWordsRaiseError := by
  refine ⟨fun w => ?_, fun w => ?_, fun s => engineStep_of_illegal⟩
  · exact not_exists.symm.trans (not_congr exists_decode_iff_mem_table)
  · rw [← not_exists, exists_decode_iff_wf, wf_ofWord_iff]
    simp only [List.mem_cons, List.not_mem_nil, or_false]
    omega

/-- Settles O2: each word is the one its command encodes to. -/
theorem tableWordsDecode : Obligations.TableWordsDecode := by
  simp only [Obligations.TableWordsDecode, decode_eq_ok_iff]
  exact ⟨rfl, rfl, rfl, rfl, rfl, rfl, rfl, rfl, rfl, rfl, rfl, rfl, rfl, rfl⟩

/-! ## Output regions -/

/-- Settles O15: what a command's body wrote when it succeeded, and nothing when it raised a command error. -/
theorem commandsWriteOnlyOutputRegion : Obligations.CommandsWriteOnlyOutputRegion := fun _ _ _ x h => exec_sameOutside h x

end Sys2Proof.Machine
end

-- The statements of 40_packet.md: laws, then the settlements
section
/-! SUPPORT. The fold of a list of bytes, a packet after a write to one of its bytes, when CKSUM and NORM complete and with what, and
the descriptor as it is filled field by field. -/

namespace Sys2Proof.Machine

/-! ## The fold (40_packet.md R120) -/

@[simp] theorem xorFold_nil : xorFold [] = 0 := rfl

/-- The fold starts at the identity, so the first byte can be taken out of it. -/
@[simp] theorem xorFold_cons (b : Byte) (bs : List Byte) : xorFold (b :: bs) = b ^^^ xorFold bs := by
  unfold xorFold
  rw [List.foldl_cons, BitVec.xor_comm 0 b, List.foldl_assoc]

/-- A difference in one byte is a difference in the fold. -/
theorem xorFold_set (d : Byte) : ∀ {bs : List Byte} {i : Nat} (h : i < bs.length),
    xorFold (bs.set i (bs[i] ^^^ d)) = xorFold bs ^^^ d
  | b :: bs, 0, _ => by
    simp only [List.set_cons_zero, List.getElem_cons_zero, xorFold_cons, BitVec.xor_assoc, BitVec.xor_comm d]
  | b :: bs, i + 1, h => by
    simp only [List.set_cons_succ, List.getElem_cons_succ, xorFold_cons, xorFold_set d (Nat.lt_of_succ_lt_succ h),
      BitVec.xor_assoc]

/-! ## One byte of a read changed (20_memory.md R63, R64) -/

/-- A byte written inside the region read is the one that changes in the answer. -/
theorem memRead_memSet {m : Memory} {a n i : Nat} {v : Bytes n} (h : memRead m a n = .ok v) (hi : i < n) (b : Byte) :
    memRead (memSet m (a + i) b) a n = .ok (v.set i b) := by
  refine memRead_eq_ok.mpr fun j hj => ?_
  rw [memGet?_memSet, Vector.getElem_set]
  by_cases hij : i = j
  · rw [if_pos (by omega), if_pos hij]
  · rw [if_neg (by omega), if_neg hij]
    exact memRead_eq_ok.mp h j hj

/-- A byte written outside the region read leaves the answer as it was. -/
theorem memRead_memSet_other {m : Memory} {a n x : Nat} {v : Bytes n} (h : memRead m a n = .ok v) (hx : x < a ∨ a + n ≤ x)
    (b : Byte) : memRead (memSet m x b) a n = .ok v := by
  refine memRead_eq_ok.mpr fun j hj => ?_
  rw [memGet?_memSet, if_neg (by omega)]
  exact memRead_eq_ok.mp h j hj

/-- The packet after a write to a byte of its body (40_packet.md R119). -/
theorem PacketIs.set_body {m : Memory} {a i : Nat} {l : Byte} {body : Bytes l.toNat} {ck : Byte} (h : PacketIs m a l body ck)
    (hi : i < l.toNat) (b : Byte) : PacketIs (memSet m (a + 5 + i) b) a l (body.set i b) ck := by
  obtain ⟨hl, hbody, hck⟩ := h
  exact ⟨by rw [memGet?_memSet, if_neg (by omega), hl], memRead_memSet hbody hi b,
    by rw [memGet?_memSet, if_neg (by omega), hck]⟩

/-- The packet after a write to its checksum byte (40_packet.md R119). -/
theorem PacketIs.set_checksum {m : Memory} {a : Nat} {l : Byte} {body : Bytes l.toNat} {ck : Byte} (h : PacketIs m a l body ck)
    (b : Byte) : PacketIs (memSet m (a + 5 + l.toNat) b) a l body b := by
  obtain ⟨hl, hbody, -⟩ := h
  exact ⟨by rw [memGet?_memSet, if_neg (by omega), hl], memRead_memSet_other hbody (.inr le_rfl) b,
    by rw [memGet?_memSet, if_pos rfl]⟩

/-- The checksum of a passing packet is wrong once one byte of the body or the checksum byte is changed (40_packet.md R121). -/
theorem PacketIs.exists_of_change {m : Memory} {a n : Nat} {l v d : Byte} {body : Bytes l.toNat} {ck : Byte}
    (h : PacketIs m a l body ck) (hsum : xorFold body.toList = ck) (hn : n ≤ l.toNat) (hv : memGet? m (a + 5 + n) = some v)
    (hd : d ≠ 0) : ∃ (body' : Bytes l.toNat) (ck' : Byte), PacketIs (memSet m (a + 5 + n) (v ^^^ d)) a l body' ck' ∧
      xorFold body'.toList ≠ ck' := by
  have ⟨_, hread, hck⟩ := h
  rcases Nat.lt_or_eq_of_le hn with hlt | rfl
  · obtain rfl : v = body[n] := Option.some.inj (hv.symm.trans (memRead_eq_ok.mp hread n hlt))
    refine ⟨_, _, h.set_body hlt _, ?_⟩
    have hset := xorFold_set d (bs := body.toList) (i := n) (by simpa using hlt)
    rw [Vector.getElem_toList] at hset
    rw [Vector.toList_set, hset, hsum]
    simpa using hd
  · obtain rfl : v = ck := Option.some.inj (hv.symm.trans hck)
    refine ⟨_, _, h.set_checksum _, ?_⟩
    rw [hsum]
    exact Ne.symm (by simpa using hd)

/-! ## CKSUM (40_packet.md R121) -/

/-- CKSUM on a written packet that fits in DMEM. -/
theorem exec_cksum_of_packetIs {s : State} {l : Byte} {body : Bytes l.toNat} {ck : Byte} (hfits : s.src.toNat + 6 + l.toNat ≤ 4096)
    (h : PacketIs s.dmem s.src.toNat l body ck) :
    exec .cksum s = .next (complete (withResult (decide (xorFold body.toList = ck)) s)) := by
  obtain ⟨hl, hbody, hck⟩ := h
  have hheader : checkRange [(s.src.toNat, 5)] = .ok () := checkRange_eq_ok.mpr (by simp [dmemSize]; omega)
  have hpacket : checkRange [(s.src.toNat, 6 + l.toNat)] = .ok () := checkRange_eq_ok.mpr (by simp [dmemSize]; omega)
  simp only [exec_eq_finish, commandBody, cksumBody, srcAddr, hheader, hpacket, memReadByte_eq_ok.mpr hl, hbody,
    memReadByte_eq_ok.mpr hck, ok_bind]
  rfl

/-- CKSUM sets RESULT only where the packet is written, fits in DMEM and has the right checksum. -/
theorem packet_of_exec_cksum {s t : State} (hr : s.status.result = false) (h : exec .cksum s = .next t)
    (ht : t.status.result = true) : ∃ (l : Byte) (body : Bytes l.toNat) (ck : Byte), s.src.toNat + 6 + l.toNat ≤ 4096 ∧
      PacketIs s.dmem s.src.toNat l body ck ∧ xorFold body.toList = ck := by
  rcases exec_eq_next h with ⟨u, hu, rfl⟩ | ⟨e, -, -, rfl⟩
  · obtain ⟨l, hl, hfits, body, hbody, ck, hck, rfl⟩ := cksumBody_eq_ok hu
    exact ⟨l, body, ck, by rw [Nat.add_assoc]; exact hfits, ⟨hl, hbody, hck⟩, eq_of_beq ht⟩
  · exact absurd (hr.symm.trans ht) Bool.false_ne_true

/-! ## The descriptor (40_packet.md R123) -/

theorem toList_bytes_one (f : Bytes 1) : f.toList = [f[0]] :=
  congrArg Vector.toList (a₂ := #v[f[0]]) (Vector.ext fun j hj => by interval_cases j; rfl)

theorem toList_bytes_two (f : Bytes 2) : f.toList = [f[0], f[1]] :=
  congrArg Vector.toList (a₂ := #v[f[0], f[1]]) (Vector.ext fun j hj => by interval_cases j <;> rfl)

/-- The two bytes of a field, re-packed (40_packet.md R124). -/
theorem toList_repack (P : Params) (f : Bytes 2) : (repack P f).toList = repackedBytes P f[0] f[1] := by
  unfold repack repackedBytes
  cases P.normRepack with
  | be => exact toList_bytes_two f
  | le =>
    simp only [toList_cat, toList_bytes_one, getElem_slice]
    rfl

/-- A field written where only zeros follow: it stands after what was written before, and zeros follow it. -/
theorem toList_setSlice_zeros {n k r i : Nat} {d : Bytes n} {pre : List Byte} (v : Bytes k) (h : i + k ≤ n)
    (hd : d.toList = pre ++ List.replicate (k + r) 0) (hi : pre.length = i) :
    (setSlice d i v h).toList = pre ++ v.toList ++ List.replicate r 0 := by
  subst hi
  rw [toList_setSlice, hd, List.take_left, ← List.drop_drop, List.drop_left, List.drop_replicate, Nat.add_sub_cancel_left]

/-- The descriptor: each write fills the zeros that the writes before it left. -/
theorem toList_normalizePacket (P : Params) (b : Bytes 23) : (normalizePacket P b).toList = descriptorBytes P b := by
  have hcopy : (setSlice (zeros 32) 0 (slice b 0 15)).toList = (slice b 0 15).toList ++ List.replicate 17 0 :=
    toList_setSlice_zeros (pre := []) _ (by decide) (toList_zeros 32) rfl
  have hskip : (setSlice (zeros 32) 0 (slice b 0 15)).toList = ((slice b 0 15).toList ++ [0]) ++ List.replicate 16 0 := by
    rw [hcopy, List.append_assoc]
    rfl
  have h0 := toList_setSlice_zeros (r := 14) (i := 16) (repack P (slice b 15 2)) (by decide) hskip (by simp)
  have h1 := toList_setSlice_zeros (r := 12) (i := 18) (repack P (slice b 17 2)) (by decide) h0 (by simp)
  have h2 := toList_setSlice_zeros (r := 11) (i := 20) (slice b 19 1) (by decide) h1 (by simp)
  have h4 := toList_setSlice_zeros (r := 10) (i := 21) (slice b 22 1) (by decide) h2 (by simp)
  have h3 := toList_setSlice_zeros (r := 8) (i := 22) (repack P (slice b 20 2)) (by decide) h4 (by simp)
  have hbody : (slice b 0 15).toList = b.toList.take 15 := toList_slice b 0 15 (by decide)
  refine h3.trans ?_
  simp only [descriptorBytes, hbody, toList_repack, toList_bytes_one, getElem_slice, List.append_assoc, List.cons_append,
    List.nil_append]

/-! ## Commands that store their output (30_encoding.md R94) -/

/-- A list of bytes written is stored, and nothing else is (20_memory.md R64). -/
theorem storedAt_memWriteList (m : Memory) (a : Nat) (bs : List Byte) : StoredAt m a bs (memWriteList m a bs) := by
  refine ⟨fun i hi => ?_, fun x hx => ?_⟩
  · rw [memGet?_memWriteList, dif_pos (by omega)]
    simp only [Nat.add_sub_cancel_left]
  · rw [memGet?_memWriteList, dif_neg (by omega)]

/-- A command whose body changes DMEM alone, by storing `bs` at `a`, completes storing them (60_exceptions.md R264). -/
theorem completesStoring_of_commandBody {i : Instr} {s : State} {m : Memory} {a : Nat} {bs : List Byte}
    (h : commandBody i s = .ok (withDmem m s)) (hm : StoredAt s.dmem a bs m) : CompletesStoring i s a bs :=
  ⟨complete (withDmem m s), by rw [exec_eq_finish, h]; rfl, hm, by simp [KeepsRegisters], rfl, rfl⟩

/-- NORM's body where both regions fit and the body bytes are written (40_packet.md R125). -/
theorem normBody_of_read {P : Params} {s : State} {b : Bytes 23} (hsrc : s.src.toNat + 28 ≤ 4096) (hdst : s.dst.toNat + 32 ≤ 4096)
    (hb : memRead s.dmem (s.src.toNat + 5) 23 = .ok b) :
    normBody P s = .ok (withDmem (memWrite s.dmem s.dst.toNat (normalizePacket P b)) s) := by
  have hfits : checkRange [(s.src.toNat, 28), (s.dst.toNat, 32)] = .ok () :=
    checkRange_eq_ok.mpr (by simpa using ⟨hsrc, hdst⟩)
  simp only [normBody, srcAddr, dstAddr, hfits, hb, ok_bind, pure_eq_ok]

end Sys2Proof.Machine
end

section
/-! PROOFS. The statements of 40_packet.md, by tier. -/

namespace Sys2Proof.Machine

/-! ## The checksum -/

/-- Settles O17. -/
theorem xorFoldAndPacketOk : Obligations.XorFoldAndPacketOk :=
  ⟨xorFold_nil, xorFold_cons, fun _ _ l body ck ⟨hl, hbody, hck⟩ => packetOk_eq_ok.mpr ⟨l, hl, body, hbody, ck, hck, rfl⟩⟩

/-- Settles O18. -/
theorem cksumComputesResult : Obligations.CksumComputesResult := fun _ _ _ _ hfits h => exec_cksum_of_packetIs hfits h

/-- Settles O19: the packet had the right checksum, so the one with the changed byte has a wrong one. -/
theorem cksumDetectsSingleByteChange : Obligations.CksumDetectsSingleByteChange := by
  intro s t l n v d hr h ht hl hn hv hd
  obtain ⟨l', body, ck, hfits, hp, hsum⟩ := packet_of_exec_cksum hr h ht
  obtain rfl : l = l' := Option.some.inj (hl.symm.trans hp.1)
  obtain ⟨body', ck', hp', hsum'⟩ := hp.exists_of_change hsum hn hv hd
  exact ⟨_, exec_cksum_of_packetIs hfits hp', decide_eq_false hsum', rfl⟩

/-! ## The normalised descriptor -/

/-- Settles O20. -/
theorem normalizeLayout : Obligations.NormalizeLayout := toList_normalizePacket

/-- Settles O21: the body is read before the store, so the overlap of packet and descriptor does not matter. -/
theorem normStoresDescriptor : Obligations.NormStoresDescriptor := by
  intro s b hsrc hdst hb
  rw [← toList_normalizePacket]
  exact completesStoring_of_commandBody (normBody_of_read hsrc hdst hb) (storedAt_memWriteList _ _ _)

end Sys2Proof.Machine
end

-- The statements of 41_cipher.md: laws, then the settlements
section
/-! SUPPORT. The chains as inverse of each other and block by block; what BLK and TCBC need of a state, that their bodies complete
exactly there and with what, and that their output can be their next input. -/

namespace Sys2Proof.Machine

/-! ## One block (41_cipher.md R141, R142, R149) -/

/-- One block under the machine's own cipher. -/
theorem tripleEnc_config (k : Bytes 16) (x : Block) : tripleEnc Config.params k x = enc3 k x := tripleEnc_eq_ede _ _ _

/-- Its inverse under the machine's own cipher. -/
theorem tripleDec_config (k : Bytes 16) (y : Block) : tripleDec Config.params k y = dec3 k y := tripleDec_eq_ded _ _ _

/-- With one key three times, the two passes in the middle cancel: EDE is one encryption. -/
theorem ede_same_key (P : Params) (a x : Block) : ede P a a a x = blockEnc P a x := by
  simp [ede, blockEnc, blockDec]

/-- With one key three times DED is one decryption. -/
theorem ded_same_key (P : Params) (a y : Block) : ded P a a a y = blockDec P a y := by
  simp [ded, blockEnc, blockDec]

theorem tripleEnc_of_equal_halves {k : Bytes 16} (h : lo8 k = hi8 k) (P : Params) (x : Block) :
    tripleEnc P k x = blockEnc P (lo8 k) x := by
  rw [tripleEnc_eq_ede, ← h, ede_same_key]

theorem tripleDec_of_equal_halves {k : Bytes 16} (h : lo8 k = hi8 k) (P : Params) (y : Block) :
    tripleDec P k y = blockDec P (lo8 k) y := by
  rw [tripleDec_eq_ded, ← h, ded_same_key]

/-! ## Chains (41_cipher.md R143, R144) -/

/-- Decryption undoes the encrypting chain from the same chaining value: both go on from the ciphertext block. -/
theorem cbcDec_cbcEnc (P : Params) (k : Bytes 16) (ps : List Block) :
    ∀ prev, cbcDec P k prev (cbcEnc P k prev ps) = ps := by
  induction ps with
  | nil => exact fun _ => rfl
  | cons p ps ih => intro prev; rw [cbcEnc, cbcDec, tripleDec_tripleEnc, xorBytes_cancel, ih]

/-- Encryption undoes the decrypting chain from the same chaining value. -/
theorem cbcEnc_cbcDec (P : Params) (k : Bytes 16) (cs : List Block) :
    ∀ prev, cbcEnc P k prev (cbcDec P k prev cs) = cs := by
  induction cs with
  | nil => exact fun _ => rfl
  | cons c cs ih => intro prev; rw [cbcDec, cbcEnc, xorBytes_cancel, tripleEnc_tripleDec, ih]

@[simp] theorem toList_tcbcEnc (P : Params) {n : Nat} (k : Bytes 16) (p : Vector Block n) :
    (tcbcEnc P k p).toList = cbcEnc P k (zeros 8) p.toList := by
  simp [tcbcEnc]

@[simp] theorem toList_tcbcDec (P : Params) {n : Nat} (k : Bytes 16) (ct : Vector Block n) :
    (tcbcDec P k ct).toList = cbcDec P k (zeros 8) ct.toList := by
  simp [tcbcDec]

@[simp] theorem tcbcDec_tcbcEnc (P : Params) {n : Nat} (k : Bytes 16) (p : Vector Block n) :
    tcbcDec P k (tcbcEnc P k p) = p :=
  vector_eq_of_toList (by rw [toList_tcbcDec, toList_tcbcEnc, cbcDec_cbcEnc])

@[simp] theorem tcbcEnc_tcbcDec (P : Params) {n : Nat} (k : Bytes 16) (ct : Vector Block n) :
    tcbcEnc P k (tcbcDec P k ct) = ct :=
  vector_eq_of_toList (by rw [toList_tcbcEnc, toList_tcbcDec, cbcEnc_cbcDec])

/-- Block `i` of `TcbcEnc` depends on the plaintext blocks up to `i` only: on block `i`, and through the ciphertext block before it
on those before. -/
theorem tcbcEnc_getElem_congr (P : Params) {n : Nat} (k : Bytes 16) {p q : Vector Block n} :
    ∀ (i : Nat) (h : i < n), (∀ j (hj : j ≤ i), p[j] = q[j]) → (tcbcEnc P k p)[i] = (tcbcEnc P k q)[i] := by
  intro i
  induction i with
  | zero =>
    intro h hpq
    rw [tcbcEnc_getElem P k p, tcbcEnc_getElem P k q, hpq 0 le_rfl, if_pos rfl, if_pos rfl]
  | succ i ih =>
    intro h hpq
    have hprev : (tcbcEnc P k p)[i] = (tcbcEnc P k q)[i] := ih (by omega) fun j hj => hpq j (by omega)
    rw [tcbcEnc_getElem P k p, tcbcEnc_getElem P k q, hpq (i + 1) le_rfl, if_neg (by omega), if_neg (by omega)]
    simp only [Nat.add_sub_cancel, hprev]

/-- Block `i` of `TcbcDec` depends on ciphertext blocks `i` and `i - 1` only. -/
theorem tcbcDec_getElem_congr (P : Params) {n : Nat} (k : Bytes 16) {p q : Vector Block n} {i : Nat} (h : i < n)
    (hi : p[i] = q[i]) (hprev : 0 < i → p[i - 1] = q[i - 1]) : (tcbcDec P k p)[i] = (tcbcDec P k q)[i] := by
  rw [tcbcDec_getElem P k p, tcbcDec_getElem P k q, hi]
  split
  · rfl
  · rw [hprev (by omega)]

/-! ## Reads beside a write (20_memory.md R64) -/

/-- `MemRead` outside the region that changed answers as before. -/
theorem memRead_of_sameOutside {m m' : Memory} {a n b k : Nat} {v : Bytes k} (h : SameOutside a n m m')
    (hb : b + k ≤ a ∨ a + n ≤ b) (hread : memRead m b k = .ok v) : memRead m' b k = .ok v :=
  memRead_eq_ok.mpr fun i hi => (h _ (by omega)).trans (memRead_eq_ok.mp hread i hi)

/-! ## BLK (41_cipher.md R145, R146) -/

/-- What BLK needs of a state: its three regions fit in DMEM, with the key `k` and the block `x` written. -/
structure BlkReady (s : State) (k x : Block) : Prop where
  src_fits : s.src.toNat + 8 ≤ 4096
  key_fits : s.key.toNat + 8 ≤ 4096
  dst_fits : s.dst.toNat + 8 ≤ 4096
  key_read : memRead s.dmem s.key.toNat 8 = .ok k
  src_read : memRead s.dmem s.src.toNat 8 = .ok x

/-- BLK's body succeeds exactly there, with its output block stored at DST. -/
theorem blkBody_eq_ok_iff {f : Block → Block → Block} {s u : State} :
    blkBody f s = .ok u ↔ ∃ k x, BlkReady s k x ∧ u = withDmem (memWrite s.dmem s.dst.toNat (f k x)) s := by
  have hfits : checkRange [(s.src.toNat, 8), (s.key.toNat, 8), (s.dst.toNat, 8)] = .ok () ↔
      s.src.toNat + 8 ≤ 4096 ∧ s.key.toNat + 8 ≤ 4096 ∧ s.dst.toNat + 8 ≤ 4096 :=
    checkRange_eq_ok.trans (by simp [dmemSize])
  simp only [blkBody, bind_eq_ok, pure_eq_ok, Except.ok.injEq, srcAddr, dstAddr, keyAddr]
  constructor
  · rintro ⟨⟨⟩, hchecked, k, hk, x, hx, rfl⟩
    obtain ⟨hsrc, hkey, hdst⟩ := hfits.mp hchecked
    exact ⟨k, x, ⟨hsrc, hkey, hdst, hk, hx⟩, rfl⟩
  · rintro ⟨k, x, ⟨hsrc, hkey, hdst, hk, hx⟩, rfl⟩
    exact ⟨(), hfits.mpr ⟨hsrc, hkey, hdst⟩, k, hk, x, hx, rfl⟩

theorem BlkReady.completes_blkE {s : State} {k x : Block} (h : BlkReady s k x) :
    CompletesStoring .blkE s s.dst.toNat (blockEnc Config.params k x).toList :=
  completesStoring_of_commandBody (blkBody_eq_ok_iff.mpr ⟨k, x, h, rfl⟩) (storedAt_memWriteList _ _ _)

theorem BlkReady.completes_blkD {s : State} {k x : Block} (h : BlkReady s k x) :
    CompletesStoring .blkD s s.dst.toNat (blockDec Config.params k x).toList :=
  completesStoring_of_commandBody (blkBody_eq_ok_iff.mpr ⟨k, x, h, rfl⟩) (storedAt_memWriteList _ _ _)

/-- BLK.E without an error ran on a ready state, and stored the encrypted block. -/
theorem exec_blkE_eq_next {s t : State} (h : exec .blkE s = .next t) (herr : t.status.err = false) :
    ∃ k x, BlkReady s k x ∧ t = complete (withDmem (memWrite s.dmem s.dst.toNat (blockEnc Config.params k x)) s) := by
  rcases exec_eq_next h with ⟨u, hu, rfl⟩ | ⟨e, -, -, rfl⟩
  · obtain ⟨k, x, hready, rfl⟩ := blkBody_eq_ok_iff.mp hu
    exact ⟨k, x, hready, rfl⟩
  · exact absurd herr (by simp)

/-- A block `y` stored at DST beside the key is ready to be the next input. -/
theorem BlkReady.of_output {s : State} {k x y : Block} {d : DmemAddr} (h : BlkReady s k x)
    (hdisj : s.key.toNat + 8 ≤ s.dst.toNat ∨ s.dst.toNat + 8 ≤ s.key.toNat) (hd : d.toNat + 8 ≤ 4096) :
    BlkReady { complete (withDmem (memWrite s.dmem s.dst.toNat y) s) with src := s.dst, dst := d } k y where
  src_fits := h.dst_fits
  key_fits := h.key_fits
  dst_fits := hd
  key_read := memRead_of_sameOutside (sameOutside_memWrite le_rfl le_rfl _ _) hdisj h.key_read
  src_read := memRead_memWrite _ _ _

/-! ## TCBC (41_cipher.md R147, R148) -/

/-- What TCBC needs of a state: LEN is n blocks, and its three regions fit in DMEM, with the key `k` and the blocks `p` written. -/
structure TcbcReady (s : State) (n : Nat) (k : Bytes 16) (p : Vector Block n) : Prop where
  len_eq : s.len.toNat = 8 * n
  src_fits : s.src.toNat + 8 * n ≤ 4096
  key_fits : s.key.toNat + 16 ≤ 4096
  dst_fits : s.dst.toNat + 8 * n ≤ 4096
  key_read : memRead s.dmem s.key.toNat 16 = .ok k
  src_read : memReadBlocks s.dmem s.src.toNat n = .ok p

/-- TCBC's body succeeds there, with its output blocks stored at DST. -/
theorem TcbcReady.body_eq_ok {s : State} {n : Nat} {k : Bytes 16} {p : Vector Block n} (h : TcbcReady s n k p)
    (f : (n : Nat) → Bytes 16 → Vector Block n → Vector Block n) :
    tcbcBody f s = .ok (withDmem (memWriteBlocks s.dmem s.dst.toNat (f n k p)) s) := by
  obtain ⟨hlen, hsrc, hkey, hdst, hk, hp⟩ := h
  obtain rfl : s.len.toNat / 8 = n := by omega
  have hmul : checkLen s.len.toNat = .ok () := checkLen_eq_ok.mpr (by omega)
  have hfits : checkRange [(s.src.toNat, s.len.toNat), (s.key.toNat, 16), (s.dst.toNat, s.len.toNat)] = .ok () :=
    checkRange_eq_ok.mpr (by simp [dmemSize]; omega)
  simp only [tcbcBody, lenCount, srcAddr, keyAddr, dstAddr, hmul, hfits, hk, hp, ok_bind, pure_eq_ok]

theorem TcbcReady.exec_tcbcE {s : State} {n : Nat} {k : Bytes 16} {p : Vector Block n} (h : TcbcReady s n k p) :
    exec .tcbcE s = .next (complete (withDmem (memWriteBlocks s.dmem s.dst.toNat (tcbcEnc Config.params k p)) s)) := by
  rw [exec_eq_finish, commandBody, h.body_eq_ok]
  rfl

theorem TcbcReady.completes_tcbcE {s : State} {n : Nat} {k : Bytes 16} {p : Vector Block n} (h : TcbcReady s n k p) :
    CompletesStoring .tcbcE s s.dst.toNat (blockBytes (tcbcEnc Config.params k p).toList) :=
  completesStoring_of_commandBody (h.body_eq_ok _) (storedAt_memWriteList _ _ _)

theorem TcbcReady.completes_tcbcD {s : State} {n : Nat} {k : Bytes 16} {ct : Vector Block n} (h : TcbcReady s n k ct) :
    CompletesStoring .tcbcD s s.dst.toNat (blockBytes (tcbcDec Config.params k ct).toList) :=
  completesStoring_of_commandBody (h.body_eq_ok _) (storedAt_memWriteList _ _ _)

/-- Blocks `y` stored at DST beside the key are ready to be the next input. -/
theorem TcbcReady.of_output {s : State} {n : Nat} {k : Bytes 16} {p y : Vector Block n} {d : DmemAddr} (h : TcbcReady s n k p)
    (hdisj : s.key.toNat + 16 ≤ s.dst.toNat ∨ s.dst.toNat + 8 * n ≤ s.key.toNat) (hd : d.toNat + 8 * n ≤ 4096) :
    TcbcReady { complete (withDmem (memWriteBlocks s.dmem s.dst.toNat y) s) with src := s.dst, dst := d } n k y where
  len_eq := h.len_eq
  src_fits := h.dst_fits
  key_fits := h.key_fits
  dst_fits := hd
  key_read := memRead_of_sameOutside (sameOutside_memWriteBlocks _ _ _) hdisj h.key_read
  src_read := memReadBlocks_memWriteBlocks _ _ _

end Sys2Proof.Machine
end

section
/-! PROOFS. The statements of 41_cipher.md, by tier. -/

namespace Sys2Proof.Machine

/-! ## Single blocks -/

/-- Settles O22: key and block are read before the store, so overlaps do not matter. -/
theorem blkStoresOneBlock : Obligations.BlkStoresOneBlock := by
  intro s k x hsrc hkey hdst hk hx
  have hready : BlkReady s k x := ⟨hsrc, hkey, hdst, hk, hx⟩
  exact ⟨hready.completes_blkE, hready.completes_blkD⟩

/-- Settles O23: without an error BLK.E stored its output, which is BLK.D's input beside an unchanged key. -/
theorem blkDecryptsWhatBlkEncrypted : Obligations.BlkDecryptsWhatBlkEncrypted := by
  intro s t k x d _ _ hk hx hdisj hd h herr
  obtain ⟨k', x', hready, rfl⟩ := exec_blkE_eq_next h herr
  obtain rfl : k' = k := Except.ok.inj (hready.key_read.symm.trans hk)
  obtain rfl : x' = x := Except.ok.inj (hready.src_read.symm.trans hx)
  have hinv : blockDec Config.params k' (blockEnc Config.params k' x') = x' := Equiv.symm_apply_apply _ _
  have hdec := (hready.of_output (y := blockEnc Config.params k' x') hdisj hd).completes_blkD
  rwa [hinv] at hdec

/-! ## Strings of blocks -/

/-- Settles O24. -/
theorem tcbcEncryptStoresChain : Obligations.TcbcEncryptStoresChain := by
  intro s n k p hlen hsrc hkey hdst hk hp
  have hready : TcbcReady s n k p := ⟨hlen, hsrc, hkey, hdst, hk, hp⟩
  exact ⟨_, fun i hi => (tcbcEnc_getElem _ k p i hi).trans (tripleEnc_config k _), hready.completes_tcbcE⟩

/-- Settles O25: the ciphertext is read before the store, so it may lie where the plaintext goes. -/
theorem tcbcDecryptStoresChain : Obligations.TcbcDecryptStoresChain := by
  intro s n k ct hlen hsrc hkey hdst hk hct
  have hready : TcbcReady s n k ct := ⟨hlen, hsrc, hkey, hdst, hk, hct⟩
  refine ⟨_, fun i hi => ?_, hready.completes_tcbcD⟩
  rw [tcbcDec_getElem _ k ct i hi, tripleDec_config]

/-- Settles O26. -/
theorem tcbcRoundTrip : Obligations.TcbcRoundTrip := fun P _ k p _ =>
  ⟨tcbcDec_tcbcEnc P k p, tcbcEnc_tcbcDec P k p, tcbcEnc_getElem_congr P k, fun _ => tcbcDec_getElem_congr P k⟩

/-- Settles O27: each block of the chains is one of the single-key cipher. -/
theorem equalHalvesGiveSingleKeyCbc : Obligations.EqualHalvesGiveSingleKeyCbc := by
  intro P n k p h
  refine ⟨ede_same_key P _, ded_same_key P _, fun i hi => ?_, fun i hi => ?_⟩
  · exact (tcbcEnc_getElem P k p i hi).trans (tripleEnc_of_equal_halves h P _)
  · rw [tcbcDec_getElem P k p i hi, tripleDec_of_equal_halves h]

/-- Settles O28: what TCBC.E stored is TCBC.D's input beside an unchanged key. -/
theorem tcbcCommandsRoundTrip : Obligations.TcbcCommandsRoundTrip := by
  intro s n k p d hlen hsrc hkey hdst hd hdisj hk hp
  have hready : TcbcReady s n k p := ⟨hlen, hsrc, hkey, hdst, hk, hp⟩
  have hdec := (hready.of_output (y := tcbcEnc Config.params k p) hdisj hd).completes_tcbcD
  rw [tcbcDec_tcbcEnc] at hdec
  exact ⟨_, hready.exec_tcbcE, hdec⟩

end Sys2Proof.Machine
end

-- The statements of 42_mac_acr.md: laws, then the settlements
section
/-! SUPPORT. The MAC as its chaining values and its end; what a MAC command and ACR need of a state, and that their bodies complete
there and with what. -/

namespace Sys2Proof.Machine

/-! ## The salt increment (42_mac_acr.md R171) -/

/-- The reduction keeps the sum in the range where `tob8` is inverted. -/
theorem be64_saltInc (x : Block) : be64 (saltInc x) = (be64 x + 1) % 2 ^ 64 :=
  be64_tob8 _ (Nat.mod_lt _ (by decide))

/-! ## The keyed MAC (42_mac_acr.md R170 to R173) -/

/-- Verify mode ignores the salt: it is returned as given, and the fold starts at zero. -/
@[simp] theorem macSeed_ver (P : Params) (k : Bytes 16) (salt : Option Block) : macSeed P k salt .ver = (salt, zeros 8) := rfl

/-- Generate mode without a salt has none to return, and starts at zero too. -/
@[simp] theorem macSeed_gen_none (P : Params) (k : Bytes 16) : macSeed P k none .gen = (none, zeros 8) := rfl

/-- Generate mode increments the salt, returns it, and starts at its encryption under the first subkey. -/
@[simp] theorem macSeed_gen_some (P : Params) (k : Bytes 16) (x : Block) :
    macSeed P k (some x) .gen = (some (saltInc x), blockEnc P (lo8 k) (saltInc x)) := rfl

/-- The chaining value after the first `i` blocks, from `c₀`. -/
def macChain (k : Bytes 16) (c₀ : Block) {n : Nat} (data : Vector Block n) (i : Nat) : Block :=
  (data.toList.take i).foldl (macStep k) c₀

@[simp] theorem macChain_zero (k : Bytes 16) (c₀ : Block) {n : Nat} (data : Vector Block n) : macChain k c₀ data 0 = c₀ := rfl

theorem macChain_succ (k : Bytes 16) (c₀ : Block) {n : Nat} (data : Vector Block n) (i : Nat) (h : i < n) :
    macChain k c₀ data (i + 1) = macStep k (macChain k c₀ data i) data[i] := by
  have htake : data.toList.take (i + 1) = data.toList.take i ++ [data[i]] := by
    rw [List.take_succ_eq_append_getElem (by simpa using h), Vector.getElem_toList]
  rw [macChain, htake, List.foldl_append]
  rfl

/-- The MAC under the machine's own cipher, by its last chaining value. -/
theorem mac_config (k : Bytes 16) (salt : Option Block) {n : Nat} (data : Vector Block n) (mode : MacMode) :
    mac Config.params k salt data.toList mode =
      ((macSeed Config.params k salt mode).1, macEnd k (macChain k (macSeed Config.params k salt mode).2 data n)) := by
  rw [mac_eq, tripleEnc_config, macChain, List.take_of_length_le (by simp)]
  rfl

/-! ## MAC commands (42_mac_acr.md R174 to R177) -/

/-- What a MAC command stores: the MAC, and after it the salt, if one is returned. -/
def macOutput (r : Option Block × Block) : List Byte := r.2.toList ++ r.1.elim [] Vector.toList

@[simp] theorem macOutput_none (m : Block) : macOutput (none, m) = m.toList := List.append_nil _

@[simp] theorem macOutput_some (m x : Block) : macOutput (some x, m) = m.toList ++ x.toList := rfl

/-- Two strings written one after the other are their concatenation written. -/
theorem memWriteList_append (bs cs : List Byte) :
    ∀ (m : Memory) (a : Nat), memWriteList m a (bs ++ cs) = memWriteList (memWriteList m a bs) (a + bs.length) cs := by
  induction bs with
  | nil => exact fun _ _ => rfl
  | cons b bs ih =>
    intro m a
    rw [List.cons_append, memWriteList, memWriteList, ih, List.length_cons, Nat.add_assoc, Nat.add_comm 1]

/-- What a MAC command needs of a state: LEN is n blocks, and its regions fit in DMEM, with the key `k`, the blocks `data` and, if
the command takes one, the salt written. -/
structure MacReady (s : State) (n : Nat) (k : Bytes 16) (data : Vector Block n) (salt : Option Block) : Prop where
  len_eq : s.len.toNat = 8 * n
  src_fits : s.src.toNat + 8 * n ≤ 4096
  key_fits : s.key.toNat + 16 ≤ 4096
  aux_fits : salt.isSome → s.aux.toNat + 8 ≤ 4096
  dst_fits : s.dst.toNat + (if salt.isSome then 16 else 8) ≤ 4096
  key_read : memRead s.dmem s.key.toNat 16 = .ok k
  src_read : memReadBlocks s.dmem s.src.toNat n = .ok data
  aux_read : ∀ x, salt = some x → memRead s.dmem s.aux.toNat 8 = .ok x

/-- What MAC.GS and MAC.VS need of a state, with the salt that both read. -/
theorem MacReady.of_salt {s : State} {n : Nat} {k : Bytes 16} {data : Vector Block n} {salt : Block} (hlen : s.len.toNat = 8 * n)
    (hsrc : s.src.toNat + 8 * n ≤ 4096) (hkey : s.key.toNat + 16 ≤ 4096) (haux : s.aux.toNat + 8 ≤ 4096)
    (hdst : s.dst.toNat + 16 ≤ 4096) (hk : memRead s.dmem s.key.toNat 16 = .ok k)
    (hd : memReadBlocks s.dmem s.src.toNat n = .ok data) (hx : memRead s.dmem s.aux.toNat 8 = .ok salt) :
    MacReady s n k data (some salt) :=
  ⟨hlen, hsrc, hkey, fun _ => haux, hdst, hk, hd, fun _ h => Option.some.inj h ▸ hx⟩

/-- The body of a MAC command succeeds there, with its output stored at DST. -/
theorem MacReady.body_eq_ok {s : State} {n : Nat} {k : Bytes 16} {data : Vector Block n} {salt : Option Block}
    (h : MacReady s n k data salt) (P : Params) (mode : MacMode) :
    macBody P mode salt.isSome s =
      .ok (withDmem (memWriteList s.dmem s.dst.toNat (macOutput (mac P k salt data.toList mode))) s) := by
  obtain ⟨hlen, hsrc, hkey, haux, hdst, hk, hd, hx⟩ := h
  obtain rfl : s.len.toNat / 8 = n := by omega
  have hmul : checkLen s.len.toNat = .ok () := checkLen_eq_ok.mpr (by omega)
  cases salt with
  | none =>
    have hfits : checkRange [(s.src.toNat, s.len.toNat), (s.key.toNat, 16), (s.dst.toNat, 8)] = .ok () :=
      checkRange_eq_ok.mpr (by simp [dmemSize] at hdst ⊢; omega)
    have hout : mac P k none data.toList mode = (none, (mac P k none data.toList mode).2) :=
      Prod.ext (mac_none_fst P k _ mode) rfl
    rw [hout, macOutput_none]
    simp [macBody, lenCount, srcAddr, keyAddr, dstAddr, hmul, hfits, hk, hd, mac_none_fst, memWrite]
  | some x =>
    have hfits : checkRange [(s.src.toNat, s.len.toNat), (s.key.toNat, 16), (s.aux.toNat, 8), (s.dst.toNat, 16)] = .ok () :=
      checkRange_eq_ok.mpr (by simp [dmemSize] at haux hdst ⊢; omega)
    obtain ⟨y, hy⟩ := mac_some_fst P k x data.toList mode
    have hout : mac P k (some x) data.toList mode = (some y, (mac P k (some x) data.toList mode).2) := Prod.ext hy rfl
    rw [hout, macOutput_some, memWriteList_append]
    simp [macBody, lenCount, srcAddr, keyAddr, auxAddr, dstAddr, hmul, hfits, hk, hd, hx x rfl, hy, memWrite, Except.map]

/-- A command with that body stores the MAC of the last chaining value, and the salt if it takes one. -/
theorem MacReady.completes {i : Instr} {s : State} {n : Nat} {k : Bytes 16} {data : Vector Block n} {salt : Option Block}
    {mode : MacMode} (h : MacReady s n k data salt) (hi : commandBody i s = macBody Config.params mode salt.isSome s) :
    CompletesStoring i s s.dst.toNat (macOutput
      ((macSeed Config.params k salt mode).1, macEnd k (macChain k (macSeed Config.params k salt mode).2 data n))) := by
  rw [← mac_config]
  exact completesStoring_of_commandBody (hi.trans (h.body_eq_ok _ mode)) (storedAt_memWriteList _ _ _)

/-! ## ACR (42_mac_acr.md R181) -/

/-- ACR's body where the regions fit and what it reads is written. -/
theorem acrBody_of_read {P : Params} {s : State} {desc : Bytes 32} {k : Block} {cert : Bytes 4} {sbox : Bytes 256}
    {ref : Bytes 128} (hsrc : s.src.toNat + 32 ≤ 4096) (hkey : s.key.toNat + 8 ≤ 4096) (haux : s.aux.toNat + 4 ≤ 4096)
    (hdst : s.dst.toNat + 8 ≤ 4096) (hd : memRead s.dmem s.src.toNat 32 = .ok desc) (hk : memRead s.dmem s.key.toNat 8 = .ok k)
    (hc : memRead s.dmem s.aux.toNat 4 = .ok cert) (hs : memRead s.dmem sboxAddr 256 = .ok sbox)
    (hr : memRead s.dmem refAddr 128 = .ok ref) :
    acrBody P s = .ok (withDmem (memWrite s.dmem s.dst.toNat (acr P sbox ref k cert desc)) s) := by
  have hfits : checkRange [(s.src.toNat, 32), (s.key.toNat, 8), (s.aux.toNat, 4), (s.dst.toNat, 8)] = .ok () :=
    checkRange_eq_ok.mpr (by simp [dmemSize]; omega)
  simp only [acrBody, srcAddr, keyAddr, auxAddr, dstAddr, hfits, hd, hk, hc, hs, hr, ok_bind, pure_eq_ok]

/-- The six steps of the ACR under the machine's own parameters. -/
theorem acr_config (sbox : Bytes 256) (ref : Bytes 128) (k : Block) (cert : Bytes 4) (desc : Bytes 32) :
    acr Config.params sbox ref k cert desc = acrValue sbox ref k cert desc := rfl

end Sys2Proof.Machine
end

section
/-! PROOFS. The statements of 42_mac_acr.md, by tier. -/

namespace Sys2Proof.Machine

/-! ## The MAC -/

/-- Settles O29. -/
theorem saltIncrement : Obligations.SaltIncrement := ⟨be64_saltInc, by decide, by decide⟩

/-- Settles O33: both modes fold the data from zero and end in one block of the triple cipher. -/
theorem verifyMacEqualsUnsaltedGenerate : Obligations.VerifyMacEqualsUnsaltedGenerate := by
  intro P k data salt
  simp only [mac_eq, macSeed_ver, macSeed_gen_none, and_self]

/-! ## MAC commands -/

/-- Settles O30: without a salt both modes have the chaining values from zero. -/
theorem unsaltedMacsStoreMac : Obligations.UnsaltedMacsStoreMac := by
  intro s n k data hlen hsrc hkey hdst hk hd
  have hready : MacReady s n k data none := ⟨hlen, hsrc, hkey, nofun, hdst, hk, hd, nofun⟩
  have hgen := hready.completes (i := .macG) (mode := .gen) rfl
  have hver := hready.completes (i := .macV) (mode := .ver) rfl
  rw [macSeed_gen_none, macOutput_none] at hgen
  rw [macSeed_ver, macOutput_none] at hver
  exact ⟨macChain k (zeros 8) data, rfl, macChain_succ k _ data, hgen, hver⟩

/-- Settles O31: the salt goes into the seed and out beside the MAC incremented. -/
theorem macGenerateWithSalt : Obligations.MacGenerateWithSalt := by
  intro s n k data salt hlen hsrc hkey haux hdst hk hd hx
  have hgen := (MacReady.of_salt hlen hsrc hkey haux hdst hk hd hx).completes (i := .macGS) (mode := .gen) rfl
  rw [macSeed_gen_some, macOutput_some] at hgen
  exact ⟨saltInc salt, macChain k (blockEnc Config.params (lo8 k) (saltInc salt)) data, be64_saltInc salt, rfl,
    macChain_succ k _ data, hgen⟩

/-- Settles O32: verify mode seeds the fold with zero whatever the salt. -/
theorem macVerifyWithSalt : Obligations.MacVerifyWithSalt := by
  intro s n k data salt hlen hsrc hkey haux hdst hk hd hx
  have hver := (MacReady.of_salt hlen hsrc hkey haux hdst hk hd hx).completes (i := .macVS) (mode := .ver) rfl
  rw [macSeed_ver, macOutput_some] at hver
  exact ⟨macChain k (zeros 8) data, rfl, macChain_succ k _ data, hver⟩

/-! ## ACR -/

/-- Settles O34: everything is read before the store, so the response may overwrite any of it. -/
theorem acrStoresResponse : Obligations.AcrStoresResponse := by
  intro s desc k cert sbox ref hsrc hkey haux hdst hd hk hc hs hr
  rw [← acr_config]
  exact completesStoring_of_commandBody (acrBody_of_read hsrc hkey haux hdst hd hk hc hs hr) (storedAt_memWriteList _ _ _)

end Sys2Proof.Machine
end

-- The statements of 43_handshake.md: laws, then the settlements
section
/-! SUPPORT. When each transition ends and with which verdict, said once; what a run of transitions, a command and a whole step do
to the session; HSSTEP by the end of its transition; HSRUN as a chain of HSSTEPs; and that a transition whose bytes are written
reads no unwritten one. -/

namespace Sys2Proof.Machine

/-! ## The halves of a 16-byte register (00_scope.md R13, R16) -/

@[simp] theorem lo8_cat16 (a b : Block) : lo8 (cat16 a b) = a :=
  vector_eq_of_toList (by simp [lo8, cat16])

@[simp] theorem hi8_cat16 (a b : Block) : hi8 (cat16 a b) = b :=
  vector_eq_of_toList (by simp [hi8, cat16])

/-- Writing the first half keeps the second. -/
theorem setSlice_lo8 (x : Bytes 16) (a : Block) : setSlice x 0 a = cat16 a (hi8 x) :=
  vector_eq_of_toList (by simp [hi8, cat16])

/-- Writing the second half keeps the first. -/
theorem setSlice_hi8 (x : Bytes 16) (b : Block) : setSlice x 8 b = cat16 (lo8 x) b :=
  vector_eq_of_toList (by simp [lo8, cat16])

/-! ## The nonce field interchange (43_handshake.md R222; P_XCHG of 00_scope.md R11) -/

/-- The interchange writes NONCE and USBR alone. -/
theorem interchange_eq (P : Params) (S : Session) :
    interchange P S = { S with nonce := (interchange P S).nonce, usbr := (interchange P S).usbr } := by
  unfold interchange
  cases P.xchg <;> rfl

theorem interchange_chash (P : Params) (S : Session) : (interchange P S).chash = S.chash := by
  rw [interchange_eq]

/-- The last 4 bytes of `x` replaced by those of `y`. -/
theorem toList_setSlice_last (x y : Bytes 16) :
    (setSlice x 12 (slice y 12 4)).toList = x.toList.take 12 ++ y.toList.drop 12 := by
  have htake : (y.toList.drop 12).take 4 = y.toList.drop 12 := List.take_of_length_le (by simp)
  have hdrop : x.toList.drop 16 = [] := List.drop_of_length_le (by simp)
  rw [toList_setSlice, toList_slice, htake, hdrop, List.append_nil]

/-- NONCE takes the last 4 bytes of USBR, in both readings. -/
theorem toList_interchange_nonce (P : Params) (S : Session) :
    (interchange P S).nonce.toList = S.nonce.toList.take 12 ++ S.usbr.toList.drop 12 := by
  unfold interchange
  cases P.xchg <;> exact toList_setSlice_last _ _

/-- USBR takes the last 4 bytes that NONCE had, in the reading SWAP. -/
theorem toList_interchange_usbr_swap {P : Params} (h : P.xchg = .swap) (S : Session) :
    (interchange P S).usbr.toList = S.usbr.toList.take 12 ++ S.nonce.toList.drop 12 := by
  simp only [interchange, h, toList_setSlice_last]

/-- USBR stays, in the reading COPY. -/
theorem interchange_usbr_copy {P : Params} (h : P.xchg = .copy) (S : Session) : (interchange P S).usbr = S.usbr := by
  simp [interchange, h]

/-- The salt is the half of NONCE that the interchange does not reach. -/
theorem lo8_interchange_nonce (P : Params) (S : Session) : lo8 (interchange P S).nonce = lo8 S.nonce :=
  vector_eq_of_toList (by simp [lo8, toList_interchange_nonce, List.take_append_of_le_length, List.take_take])

/-! ## What a transition can end in (43_handshake.md R212, R213 to R228) -/

/-- A choice between two results succeeds with the one it chooses. -/
theorem ite_pure_eq_ok {α : Type} {p : Prop} [Decidable p] {u v w : α} :
    (if p then pure v else pure w : Except Abort α) = .ok u ↔ u = if p then v else w := by
  split <;> simp [eq_comm]

/-- A compare fails with its one kind. -/
theorem kind_of_compare {p : Prop} [Decidable p] {k k' : FailKind} {S S' T : Session}
    (h : Verdict.fail k S = if p then .fail k' S' else .pass T) : k = k' := by
  split at h <;> cases h
  rfl

/-- A transition that starts with a checksum test ends at once where the test fails, and goes on where it passes. -/
theorem packetThen_eq_ok {m : Memory} {a : Nat} {v w : Verdict} {y : Except Abort Verdict} :
    (packetOk m a >>= fun ok => if (!ok) = true then pure w else y) = .ok v ↔
      (packetOk m a = .ok false ∧ v = w) ∨ (packetOk m a = .ok true ∧ y = .ok v) := by
  rw [bind_eq_ok]
  simp [Bool.exists_bool, eq_comm (a := w)]

theorem t0_eq_ok {P : Params} {m : Memory} {S : Session} {v : Verdict} : t0 P m S = .ok v ↔
    (packetOk m 0x200 = .ok false ∧ v = .fail .checksumMismatch S) ∨
    (packetOk m 0x200 = .ok true ∧ ∃ b, memRead m 0x205 23 = .ok b ∧ v = .pass { S with desc := normalizePacket P b }) := by
  unfold t0
  rw [packetThen_eq_ok]
  simp only [bind_eq_ok, pure_eq_ok, Except.ok.injEq, eq_comm (b := v)]
  rfl

theorem t1_eq_ok {P : Params} {m : Memory} {S : Session} {v : Verdict} : t1 P m S = .ok v ↔
    (packetOk m 0x400 = .ok false ∧ v = .fail .checksumMismatch S) ∨
    (packetOk m 0x400 = .ok true ∧ ∃ ct, memReadBlocks m 0x405 3 = .ok ct ∧ ∃ k1, memRead m 0x000 16 = .ok k1 ∧
      ∃ fsk0, memRead m 0x020 16 = .ok fsk0 ∧ ∃ fsk1, memRead m 0x030 16 = .ok fsk1 ∧
      ∃ k2, memRead m 0x010 16 = .ok k2 ∧ ∃ field, memRead m 0x41D 4 = .ok field ∧
      v = if mac4 P (mac P k2 none ct.toList .gen).2 ≠ field
        then .fail .macMismatch (t1Session P fsk0 fsk1 (tcbcDec P k1 ct) S)
        else .pass (t1Session P fsk0 fsk1 (tcbcDec P k1 ct) S)) := by
  unfold t1
  rw [packetThen_eq_ok]
  simp only [bind_eq_ok, ite_pure_eq_ok]
  rfl

theorem sessionAcr_eq_ok {P : Params} {m : Memory} {S : Session} {key a : Block} : sessionAcr P m S key = .ok a ↔
    ∃ sbox, memRead m 0x040 256 = .ok sbox ∧ ∃ ref, memRead m 0x140 128 = .ok ref ∧
      a = acr P sbox ref key (slice S.cert 0 4) S.desc := by
  simp only [sessionAcr, bind_eq_ok, pure_eq_ok, Except.ok.injEq, eq_comm (b := a)]
  rfl

theorem t2_eq_ok {P : Params} {m : Memory} {S : Session} {v : Verdict} : t2 P m S = .ok v ↔
    (packetOk m 0x600 = .ok false ∧ v = .fail .checksumMismatch S) ∨
    (packetOk m 0x600 = .ok true ∧ ∃ ct, memReadBlocks m 0x605 4 = .ok ct ∧ ∃ pt, pt = tcbcDec P S.renc ct ∧
      ((S.nonce ≠ cat16 pt[2] pt[3] ∧ v = .fail .nonceMismatch { S with usbr := cat16 pt[0] pt[1] }) ∨
      (S.nonce = cat16 pt[2] pt[3] ∧
        ∃ a, sessionAcr P m S (mac P S.rsenc none ct.toList .ver).2 = .ok a ∧ ∃ field, memRead m 0x625 8 = .ok field ∧
        v = if a ≠ field then .fail .acrMismatch { S with usbr := cat16 pt[0] pt[1] }
          else .pass { S with
            usbr := cat16 pt[0] pt[1]
            chash := P.contentHash (cat (cat16 ct[0] ct[1]) (cat16 ct[2] ct[3]))
              (cat (cat16 pt[0] pt[1]) (cat16 pt[2] pt[3])) }))) := by
  unfold t2
  rw [packetThen_eq_ok, bind_eq_ok]
  refine or_congr Iff.rfl (and_congr Iff.rfl (exists_congr fun ct => and_congr Iff.rfl ?_))
  rw [exists_eq_left]
  by_cases hnonce : S.nonce = cat16 (tcbcDec P S.renc ct)[2] (tcbcDec P S.renc ct)[3]
  · simp only [hnonce, ne_eq, not_true_eq_false, if_false, bind_eq_ok, ite_pure_eq_ok, false_and, false_or, true_and]
    rfl
  · simp only [hnonce, ne_eq, not_false_eq_true, if_true, pure_eq_ok, Except.ok.injEq, true_and, false_and, or_false,
      eq_comm (b := v)]

/-- The MAC that T3 and T4 compare: of the ciphertext, with the salt in NONCE[0:8] (43_handshake.md R224, R227). -/
def saltedMac (P : Params) (key nonce : Bytes 16) (ct : Vector Block 1) : Block :=
  (mac P key (some (lo8 nonce)) ct.toList .gen).2

/-- The session that T3 leaves after a right checksum, from the one after the interchange: the decrypted block and the updated salt
are in NONCE (43_handshake.md R223, R225). -/
def t3Session (P : Params) (ct : Vector Block 1) (S : Session) : Session :=
  { S with nonce := cat16 (saltInc (lo8 S.nonce)) (tcbcDec P S.usbr ct)[0] }

theorem t3_eq_ok {P : Params} {m : Memory} {S : Session} {v : Verdict} : t3 P m S = .ok v ↔
    (packetOk m 0x800 = .ok false ∧ v = .fail .checksumMismatch (interchange P S)) ∨
    (packetOk m 0x800 = .ok true ∧ ∃ ct, memReadBlocks m 0x805 1 = .ok ct ∧ ∃ field, memRead m 0x80D 8 = .ok field ∧
      v = if saltedMac P (interchange P S).chash (interchange P S).nonce ct ≠ field
        then .fail .macMismatch (t3Session P ct (interchange P S))
        else .pass (t3Session P ct (interchange P S))) := by
  have hsalt : ∀ x y, slice (cat16 x y) 0 8 = x := lo8_cat16
  unfold t3
  rw [packetThen_eq_ok]
  simp only [bind_eq_ok, ite_pure_eq_ok, setSlice_hi8, setSlice_lo8, hsalt, hi8_cat16]
  rfl

/-- The session that T4 leaves after a right checksum (43_handshake.md R226, R227). -/
def t4Session (P : Params) (ct : Vector Block 1) (S : Session) : Session :=
  { S with expacr := (tcbcDec P S.renc ct)[0], nonce := cat16 (saltInc (lo8 S.nonce)) (hi8 S.nonce) }

theorem t4_eq_ok {P : Params} {m : Memory} {S : Session} {v : Verdict} : t4 P m S = .ok v ↔
    (packetOk m 0xA00 = .ok false ∧ v = .fail .checksumMismatch S) ∨
    (packetOk m 0xA00 = .ok true ∧ ∃ ct, memReadBlocks m 0xA05 1 = .ok ct ∧ ∃ field, memRead m 0xA0D 8 = .ok field ∧
      v = if saltedMac P S.rsenc S.nonce ct ≠ field then .fail .macMismatch (t4Session P ct S)
        else .pass (t4Session P ct S)) := by
  unfold t4
  rw [packetThen_eq_ok]
  simp only [bind_eq_ok, ite_pure_eq_ok, setSlice_lo8]
  rfl

theorem t5_eq_ok {P : Params} {m : Memory} {S : Session} {v : Verdict} : t5 P m S = .ok v ↔
    ∃ a, sessionAcr P m S (hi8 S.nonce) = .ok a ∧ v = if a ≠ S.expacr then .fail .acrMismatch S else .pass S := by
  unfold t5
  simp only [bind_eq_ok, ite_pure_eq_ok]
  rfl

/-- A transition fails only with a kind that is possible where it starts (43_handshake.md R234, item 3). -/
theorem verdictPossible_of_transitionBody {P : Params} {m : Memory} {S S' : Session} {k : FailKind}
    (h : transitionBody P m S = .ok (.fail k S')) : verdictPossible k S.hsState = true := by
  unfold transitionBody at h
  split at h
  next hst =>
    rw [hst]
    rcases t0_eq_ok.mp h with ⟨-, ⟨⟩⟩ | ⟨-, b, -, ⟨⟩⟩
    rfl
  next hst =>
    rw [hst]
    rcases t1_eq_ok.mp h with ⟨-, ⟨⟩⟩ | ⟨-, _, -, _, -, _, -, _, -, _, -, _, -, hv⟩
    · rfl
    · exact kind_of_compare hv ▸ rfl
  next hst =>
    rw [hst]
    rcases t2_eq_ok.mp h with ⟨-, ⟨⟩⟩ | ⟨-, _, -, _, -, ⟨-, ⟨⟩⟩ | ⟨-, _, -, _, -, hv⟩⟩
    · rfl
    · rfl
    · exact kind_of_compare hv ▸ rfl
  next hst =>
    rw [hst]
    rcases t3_eq_ok.mp h with ⟨-, ⟨⟩⟩ | ⟨-, _, -, _, -, hv⟩
    · rfl
    · exact kind_of_compare hv ▸ rfl
  next hst =>
    rw [hst]
    rcases t4_eq_ok.mp h with ⟨-, ⟨⟩⟩ | ⟨-, _, -, _, -, hv⟩
    · rfl
    · exact kind_of_compare hv ▸ rfl
  next hst =>
    rw [hst]
    obtain ⟨_, -, hv⟩ := t5_eq_ok.mp h
    exact kind_of_compare hv ▸ rfl
  next => cases h
  next => cases h

/-! ## What a run of transitions keeps (43_handshake.md R231, R234) -/

/-- All that a run with some fuel can do: it stands in a terminal state, or makes a transition and goes on. -/
theorem runTransitions_succ_eq_ok {P : Params} {m : Memory} {n : Nat} {S S' : Session} :
    runTransitions P m (n + 1) S = .ok S' ↔ (hsTerminal S.hsState = true ∧ S' = S) ∨
      (hsTerminal S.hsState = false ∧ ∃ T, transition P m S = .ok T ∧ runTransitions P m n T = .ok S') := by
  cases hterm : hsTerminal S.hsState with
  | true => simp [runTransitions_terminal hterm, eq_comm]
  | false => simp [runTransitions_succ hterm, bind_eq_ok]

/-- What every transition keeps, a run of them keeps. -/
theorem runTransitions_keeps {P : Params} {m : Memory} {I : Session → Prop}
    (hstep : ∀ S S', hsTerminal S.hsState = false → I S → transition P m S = .ok S' → I S') :
    ∀ {n : Nat} {S S' : Session}, I S → runTransitions P m n S = .ok S' → I S' := by
  intro n
  induction n with
  | zero =>
    rintro S S' hS ⟨⟩
    exact hS
  | succ n ih =>
    intro S S' hS h
    rcases runTransitions_succ_eq_ok.mp h with ⟨-, rfl⟩ | ⟨hterm, T, hT, h⟩
    · exact hS
    · exact ih (hstep S T hterm hS hT) h

/-- One transition is a run of one. -/
theorem runTransitions_one {P : Params} {m : Memory} {S S' : Session} (hterm : hsTerminal S.hsState = false)
    (h : transition P m S = .ok S') : runTransitions P m 1 S = .ok S' :=
  runTransitions_succ_eq_ok.mpr (.inr ⟨hterm, S', h, rfl⟩)

theorem sessionInv_reset : sessionInv Session.reset := by simp [sessionInv, Session.reset]

/-- No transition that passes ends in Failed. -/
theorem hsNext_ne_failed {st : HsState} (h : hsTerminal st = false) : hsNext st ≠ .failed := by
  revert h
  cases st <;> decide

/-- A transition that passes keeps the verdict clear; one that fails writes a possible pair of kind and origin. -/
theorem transition_keeps_sessionInv {P : Params} {m : Memory} {S S' : Session} (hterm : hsTerminal S.hsState = false)
    (hS : sessionInv S) (h : transition P m S = .ok S') : sessionInv S' := by
  obtain ⟨v, hv, rfl⟩ := transition_eq_ok h
  have hverdict := transitionBody_verdict hv
  cases v with
  | pass T =>
    obtain ⟨hkind, hat⟩ := hverdict
    obtain ⟨hfailed, hinit, -⟩ := hS
    have hne : S.hsState ≠ .failed := (hsTerminal_eq_false_iff.mp hterm).2
    have hnext := hsNext_ne_failed hterm
    refine ⟨?_, fun _ => hat.trans (hinit hne), fun hf => absurd hf hnext⟩
    simp only [settle, hkind, hfailed, hne, hnext]
  | fail k T => exact ⟨by simpa [settle] using hverdict, fun hne => absurd rfl hne, fun _ => verdictPossible_of_transitionBody hv⟩

/-- A transition that completes ends in Failed or raises the code of HS_STATE by 1 (43_handshake.md R211, R212). -/
theorem hsStateBits_transition {P : Params} {m : Memory} {S S' : Session} (hterm : hsTerminal S.hsState = false)
    (h : transition P m S = .ok S') :
    S'.hsState = .failed ∨ (hsStateBits S'.hsState).toNat = (hsStateBits S.hsState).toNat + 1 := by
  obtain ⟨v, -, rfl⟩ := transition_eq_ok h
  cases v with
  | pass T =>
    right
    simp only [settle]
    revert hterm
    cases S.hsState <;> decide
  | fail k T => exact .inl rfl

/-- So a transition does not lower the code: Failed has the greatest one. -/
theorem hsStateBits_le_transition {P : Params} {m : Memory} {S S' : Session} (hterm : hsTerminal S.hsState = false)
    (h : transition P m S = .ok S') : (hsStateBits S.hsState).toNat ≤ (hsStateBits S'.hsState).toNat := by
  rcases hsStateBits_transition hterm h with hfailed | hcode
  · rw [hfailed]
    exact Nat.le_of_lt_succ (hsStateBits S.hsState).isLt
  · omega

/-! ## What a command and a step do to the session (10_state.md R44) -/

/-- HSRST zeroes the session; every other command makes some number of transitions, most commands none. -/
theorem exec_session {i : Instr} {s t : State} (h : exec i s = .next t) :
    (i = .hsrst ∧ t.session = Session.reset) ∨
    (i ≠ .hsrst ∧ ∃ n, runTransitions Config.params s.dmem n s.session = .ok t.session) := by
  by_cases hrst : i = .hsrst
  · subst hrst
    cases h
    exact .inl ⟨rfl, rfl⟩
  refine .inr ⟨hrst, ?_⟩
  rcases exec_eq_next h with ⟨u, hu, rfl⟩ | ⟨e, -, -, rfl⟩
  · by_cases hstep : i = .hsstep
    · subst hstep
      obtain ⟨h0, S, hS, rfl⟩ := hsstepBody_eq_ok hu
      exact ⟨1, runTransitions_one (hsTerminal_eq_false_iff.mpr h0) hS⟩
    by_cases hrun : i = .hsrun
    · subst hrun
      obtain ⟨-, S, hS, rfl⟩ := hsrunBody_eq_ok hu
      exact ⟨6, hS⟩
    · exact ⟨0, congrArg Except.ok (exec_keeps_session hrst hstep hrun h).symm⟩
  · exact ⟨0, rfl⟩

/-- A CTRL write with SRST set is a soft reset (70_reset_and_hazards.md R292). -/
theorem busStep_of_isSoftReset {op : BusOp} (h : isSoftReset op = true) (s : State) : busStep op s = softReset s := by
  cases op with
  | write32 a w =>
    rw [isSoftReset, Bool.and_eq_true, decide_eq_true_eq] at h
    obtain ⟨ha, hw⟩ := h
    obtain rfl : a = 0x1008 := BitVec.eq_of_toNat_eq ha
    rw [busStep_write32_creg busTarget_ctrl (by decide), writeCtrl, writeCtrlReg, if_pos hw]
  | read8 a => cases h
  | read32 a => cases h
  | write8 a v => cases h

/-- All that the engine's turn does to the session. -/
theorem engineStep_session {s t : State} (h : engineStep s = .next t) :
    ((s.status.busy = true ∧ decode s.latch = .ok .hsrst) ∧ t.session = Session.reset) ∨
    (¬ (s.status.busy = true ∧ decode s.latch = .ok .hsrst) ∧
      ∃ n, runTransitions Config.params s.dmem n s.session = .ok t.session) := by
  rcases engineStep_eq_next h with ⟨hb, rfl⟩ | ⟨hb, ⟨i, hd, hi⟩ | ⟨hd, rfl⟩⟩
  · exact .inr ⟨by simp [hb], 0, rfl⟩
  · rcases exec_session hi with ⟨rfl, hreset⟩ | ⟨hne, hrun⟩
    · exact .inl ⟨⟨hb, hd⟩, hreset⟩
    · exact .inr ⟨by simp [hd, hne], hrun⟩
  · exact .inr ⟨fun hrst => hd _ hrst.2, 0, rfl⟩

/-- All that a step does to the session: the events that `SessionResetNext` names reset it, and any other makes some number of
transitions, most events none. -/
theorem step_session {s t : State} (h : step s = .next t) :
    (SessionResetNext s ∧ t.session = Session.reset) ∨
    (¬ SessionResetNext s ∧ ∃ n, runTransitions Config.params s.dmem n s.session = .ok t.session) := by
  have hnext : (nextEvent s).2.session = s.session ∧ (nextEvent s).2.dmem = s.dmem ∧
      (nextEvent s).2.status = s.status ∧ (nextEvent s).2.latch = s.latch := by
    unfold nextEvent
    split <;> exact ⟨rfl, rfl, rfl, rfl⟩
  obtain ⟨hsession, hdmem, hstatus, hlatch⟩ := hnext
  unfold step at h
  unfold SessionResetNext
  cases he : (nextEvent s).1 with
  | bus op =>
    simp only [he, eventStep, Host.Outcome.next.injEq] at h
    subst h
    cases hop : isSoftReset op with
    | true => exact .inl ⟨hop, by rw [busStep_of_isSoftReset hop, softReset_session]⟩
    | false => exact .inr ⟨Bool.eq_false_iff.mp hop, 0, by rw [busStep_keeps_session hop, hsession]; rfl⟩
  | engine =>
    simp only [he, eventStep] at h
    have hengine := engineStep_session h
    rwa [hsession, hdmem, hstatus, hlatch] at hengine
  | hardReset =>
    simp only [he, eventStep, Host.Outcome.next.injEq] at h
    subst h
    exact .inl ⟨trivial, rfl⟩

/-- HSSTEP and HSRUN raise E_STATE in a terminal state, before they read anything (43_handshake.md R229). -/
theorem exec_of_terminal {i : Instr} (hi : i = .hsstep ∨ i = .hsrun) {s : State} (h : hsTerminal s.session.hsState = true) :
    exec i s = .next (errorState .state s) := by
  have hcheck : checkState s.session.hsState = .error (.cmdError .state) := by rw [checkState, if_pos h]
  rcases hi with rfl | rfl
  · rw [exec_eq_finish, commandBody, hsstepBody, hcheck]
    rfl
  · rw [exec_eq_finish, commandBody, hsrunBody, hcheck]
    rfl

/-! ## HSSTEP by the end of its transition (43_handshake.md R211, R212, R230) -/

/-- HSSTEP where its transition fails. -/
theorem exec_hsstep_of_fail {s : State} {st : HsState} {k : FailKind} {S : Session} (hst : s.session.hsState = st)
    (hterm : hsTerminal st = false) (h : transitionBody Config.params s.dmem s.session = .ok (.fail k S)) :
    exec .hsstep s = .next (failedState s k S) := by
  subst hst
  exact exec_hsstep_of (hsTerminal_eq_false_iff.mp hterm) h

/-- HSSTEP where its transition passes. -/
theorem exec_hsstep_of_pass {s : State} {st : HsState} {S : Session} (hst : s.session.hsState = st)
    (hterm : hsTerminal st = false) (h : transitionBody Config.params s.dmem s.session = .ok (.pass S)) :
    exec .hsstep s = .next (passedState s (hsNext st) S) := by
  subst hst
  have hpassed : decide ((settle s.session.hsState (.pass S)).hsState ≠ .failed) = true :=
    decide_eq_true (hsNext_ne_failed hterm)
  rw [exec_hsstep_of (hsTerminal_eq_false_iff.mp hterm) h, hpassed]
  rfl

/-- HSSTEP where its transition ends in a compare. -/
theorem exec_hsstep_of_compare {α : Type} [DecidableEq α] {a b : α} {s : State} {st : HsState} {k : FailKind} {S T : Session}
    (hst : s.session.hsState = st) (hterm : hsTerminal st = false)
    (h : transitionBody Config.params s.dmem s.session = .ok (if a ≠ b then .fail k S else .pass T)) :
    (a ≠ b → exec .hsstep s = .next (failedState s k S)) ∧
      (a = b → exec .hsstep s = .next (passedState s (hsNext st) T)) := by
  constructor
  · intro hne
    rw [if_pos hne] at h
    exact exec_hsstep_of_fail hst hterm h
  · intro heq
    rw [if_neg (not_not_intro heq)] at h
    exact exec_hsstep_of_pass hst hterm h

section
variable {P : Params} {m : Memory} {S : Session}

theorem transitionBody_init (h : S.hsState = .init) : transitionBody P m S = t0 P m S := by rw [transitionBody, h]
theorem transitionBody_identified (h : S.hsState = .identified) : transitionBody P m S = t1 P m S := by rw [transitionBody, h]
theorem transitionBody_challenged (h : S.hsState = .challenged) : transitionBody P m S = t2 P m S := by rw [transitionBody, h]
theorem transitionBody_responseReceived (h : S.hsState = .responseReceived) : transitionBody P m S = t3 P m S := by
  rw [transitionBody, h]
theorem transitionBody_verified1 (h : S.hsState = .verified1) : transitionBody P m S = t4 P m S := by rw [transitionBody, h]
theorem transitionBody_responseVerified1 (h : S.hsState = .responseVerified1) : transitionBody P m S = t5 P m S := by
  rw [transitionBody, h]

end

/-- The checksum test of a written packet. -/
theorem packetOk_of_packetIs {m : Memory} {a : Nat} {l : Byte} {body : Bytes l.toNat} {ck : Byte} (h : PacketIs m a l body ck) :
    packetOk m a = .ok (decide (xorFold body.toList = ck)) := by
  obtain ⟨-, -, hok⟩ := xorFoldAndPacketOk
  exact hok m a l body ck h

theorem PacketIs.packetOk_false {m : Memory} {a : Nat} {l : Byte} {body : Bytes l.toNat} {ck : Byte} (h : PacketIs m a l body ck)
    (hsum : xorFold body.toList ≠ ck) : packetOk m a = .ok false := by
  rw [packetOk_of_packetIs h, decide_eq_false hsum]

theorem PacketIs.packetOk_true {m : Memory} {a : Nat} {l : Byte} {body : Bytes l.toNat} {ck : Byte} (h : PacketIs m a l body ck)
    (hsum : xorFold body.toList = ck) : packetOk m a = .ok true := by
  rw [packetOk_of_packetIs h, decide_eq_true hsum]

/-- The encryption of a nonce, block by block. -/
theorem tcbcEnc16_config (k : Bytes 16) (x y : Block) :
    tcbcEnc16 Config.params k (cat16 x y) = cat16 (enc3 k x) (enc3 k (xorBytes y (enc3 k x))) := by
  simp [tcbcEnc16, tcbcEnc_getElem, tripleEnc_config]

/-- A salt with the incremented value is the incremented salt (42_mac_acr.md R171). -/
theorem eq_saltInc_of_be64 {x y : Block} (h : be64 y = (be64 x + 1) % 2 ^ 64) : y = saltInc x := by
  rw [saltInc, ← h, tob8_be64]

/-- One block is read as its bytes. -/
theorem memReadBlocks_one {m : Memory} {a : Nat} {c : Block} (h : memRead m a 8 = .ok c) : memReadBlocks m a 1 = .ok #v[c] :=
  memReadBlocks_eq_ok.mpr fun i hi => by
    obtain rfl : i = 0 := by omega
    exact h

/-- The MAC that T3 and T4 compare, under the machine's own cipher. -/
theorem saltedMac_config (k nonce : Bytes 16) (c : Block) : saltedMac Config.params k nonce #v[c] =
    macEnd k (macStep k (blockEnc Config.params (lo8 k) (saltInc (lo8 nonce))) c) :=
  congrArg Prod.snd (mac_config k (some (lo8 nonce)) #v[c] .gen)

/-- The first block decrypted has no block before it. -/
theorem tcbcDec_zero_config (k : Bytes 16) (c : Block) : (tcbcDec Config.params k #v[c])[0] = dec3 k c := by
  simp [tcbcDec_getElem, tripleDec_config]

theorem t1Session_config (k1 fsk0 fsk1 : Bytes 16) (c0 c1 c2 : Block) (S : Session) :
    t1Session Config.params fsk0 fsk1 (tcbcDec Config.params k1 #v[c0, c1, c2]) S =
      let p0 := dec3 k1 c0
      let p1 := xorBytes (dec3 k1 c1) c0
      { S with
        nonce := cat16 p0 p1
        cert := xorBytes (dec3 k1 c2) c1
        renc := cat16 (enc3 fsk0 p0) (enc3 fsk0 (xorBytes p1 (enc3 fsk0 p0)))
        rsenc := cat16 (enc3 fsk1 p1) (enc3 fsk1 (xorBytes p0 (enc3 fsk1 p1))) } := by
  simp [t1Session, tcbcDec_getElem, tripleDec_config, tcbcEnc16_config]

theorem t3Session_config (c : Block) (S : Session) : t3Session Config.params #v[c] (interchange Config.params S) =
    { S with
      nonce := cat16 (saltInc (lo8 S.nonce)) (dec3 (interchange Config.params S).usbr c)
      usbr := (interchange Config.params S).usbr } := by
  rw [t3Session, tcbcDec_zero_config, lo8_interchange_nonce, interchange_eq]

/-! ## HSRUN as a chain of HSSTEPs (43_handshake.md R231) -/

theorem hsTerminal_eq_true_iff {st : HsState} : hsTerminal st = true ↔ st = .complete ∨ st = .failed := by
  cases st <;> simp [hsTerminal]

/-- A run with enough fuel ends in a terminal state. -/
theorem hsTerminal_of_runTransitions {P : Params} {m : Memory} {n : Nat} : ∀ {S S' : Session},
    transitionsLeft S.hsState ≤ n → runTransitions P m n S = .ok S' → hsTerminal S'.hsState = true := by
  induction n with
  | zero =>
    rintro S S' hn ⟨⟩
    revert hn
    cases S.hsState <;> decide
  | succ n ih =>
    intro S S' hn h
    rcases runTransitions_succ_eq_ok.mp h with ⟨hterm, rfl⟩ | ⟨hterm, T, hT, h⟩
    · exact hterm
    · have hlt := transitionsLeft_lt hterm hT
      exact ih (by omega) h

/-- A chain of HSSTEPs is a first transition and a chain from the session that it gives. -/
theorem hsstepChain_succ_iff {s : State} {n : Nat} {T : Nat → Session} : HsstepChain s (n + 1) T ↔
    T 0 = s.session ∧ hsTerminal s.session.hsState = false ∧ transition Config.params s.dmem s.session = .ok (T 1) ∧
      HsstepChain (withSession (T 1) s) n fun j => T (j + 1) := by
  constructor
  · rintro ⟨h0, hstep⟩
    obtain ⟨hc, hf, hu⟩ := hstep 0 (Nat.succ_pos n)
    have hT : transition Config.params s.dmem (T 0) = .ok (T 1) :=
      (exec_hsstep_session_iff (s := withSession (T 0) s) ⟨hc, hf⟩).mp hu
    rw [h0] at hc hf hT
    exact ⟨h0, hsTerminal_eq_false_iff.mpr ⟨hc, hf⟩, hT, rfl, fun j hj => hstep (j + 1) (Nat.succ_lt_succ hj)⟩
  · rintro ⟨h0, hterm, hT, -, hstep⟩
    refine ⟨h0, fun j hj => ?_⟩
    cases j with
    | zero =>
      obtain ⟨hc, hf⟩ := hsTerminal_eq_false_iff.mp hterm
      rw [h0]
      exact ⟨hc, hf, (exec_hsstep_session_iff ⟨hc, hf⟩).mpr hT⟩
    | succ j => exact hstep j (Nat.lt_of_succ_lt_succ hj)

/-- A run is a chain of as many HSSTEPs as it makes transitions. -/
theorem hsstepChain_of_runTransitions {n : Nat} : ∀ {s : State} {S : Session},
    runTransitions Config.params s.dmem n s.session = .ok S → ∃ k T, k ≤ n ∧ HsstepChain s k T ∧ T k = S := by
  have hnone : ∀ {s : State} {n : Nat}, ∃ k T, k ≤ n ∧ HsstepChain s k T ∧ T k = s.session := fun {s n} =>
    ⟨0, fun _ => s.session, Nat.zero_le n, ⟨rfl, fun _ hj => absurd hj (Nat.not_lt_zero _)⟩, rfl⟩
  induction n with
  | zero =>
    rintro s S ⟨⟩
    exact hnone
  | succ n ih =>
    intro s S h
    rcases runTransitions_succ_eq_ok.mp h with ⟨-, rfl⟩ | ⟨hterm, S', hS', h⟩
    · exact hnone
    · obtain ⟨k, T, hk, hchain, hT⟩ := ih (s := withSession S' s) h
      obtain rfl : T 0 = S' := hchain.1
      exact ⟨k + 1, fun | 0 => s.session | j + 1 => T j, Nat.succ_le_succ hk,
        hsstepChain_succ_iff.mpr ⟨rfl, hterm, hS', hchain⟩, hT⟩

/-- A chain of HSSTEPs to a terminal state is a run, with any fuel that suffices. -/
theorem runTransitions_of_hsstepChain {n : Nat} : ∀ {s : State} {T : Nat → Session} {fuel : Nat}, HsstepChain s n T →
    hsTerminal (T n).hsState = true → transitionsLeft s.session.hsState ≤ fuel →
    runTransitions Config.params s.dmem fuel s.session = .ok (T n) := by
  induction n with
  | zero =>
    rintro s T fuel ⟨h0, -⟩ hend -
    rw [h0] at hend ⊢
    exact runTransitions_terminal hend fuel
  | succ n ih =>
    intro s T fuel hchain hend hfuel
    obtain ⟨-, hterm, hT, hrest⟩ := hsstepChain_succ_iff.mp hchain
    have hlt := transitionsLeft_lt hterm hT
    obtain ⟨fuel, rfl⟩ : ∃ f, fuel = f + 1 := Nat.exists_eq_succ_of_ne_zero (by omega)
    rw [runTransitions_succ hterm, hT, ok_bind]
    exact ih hrest hend (by rw [withSession_session]; omega)

/-- The state after HSRUN: the session where the run ended, RESULT = 1 exactly for Complete (43_handshake.md R231). -/
def hsrunState (s : State) (S : Session) : State :=
  { s with
    session := S
    status := { s.status with result := decide (S.hsState = .complete), busy := false, done := true } }

/-- Outside a terminal state HSRUN gives a next state exactly where its run completes: the run raises no command error. -/
theorem exec_hsrun_eq_next {s t : State} (hterm : hsTerminal s.session.hsState = false) : exec .hsrun s = .next t ↔
    ∃ S, runTransitions Config.params s.dmem 6 s.session = .ok S ∧ t = hsrunState s S := by
  have hstate := checkState_eq_ok.mpr (hsTerminal_eq_false_iff.mp hterm)
  have hreads := runTransitions_reads True (transitionsLeft_le s.session.hsState)
  rw [exec_eq_finish, commandBody, hsrunBody, hstate, ok_bind]
  generalize runTransitions Config.params s.dmem 6 s.session = r at hreads
  rcases r with (e | a) | S
  · exact absurd trivial hreads
  · simp [finish]
  · simp only [ok_bind, pure_eq_ok, finish, Host.Outcome.next.injEq, Except.ok.injEq, exists_eq_left']
    exact eq_comm

/-- A computation that reads written bytes only and makes no failing check succeeds. -/
theorem ReadsExactly.exists_ok {α : Type} {m : Memory} {R : Nat → Prop} {r : Except Abort α} (h : ReadsExactly m True R r)
    (hw : ∀ x, R x → memGet? m x ≠ none) : ∃ v, r = .ok v := by
  rcases r with (e | a) | v
  · exact absurd trivial h
  · obtain ⟨hread, hnone⟩ := h
    exact absurd hnone (hw a hread)
  · exact ⟨v, rfl⟩

/-! ## The bytes that the table of R293 asks for (70_reset_and_hazards.md R293) -/

theorem Written.ne_none {m : Memory} {a n x : Nat} (h : Written m a n) (hx : InRegion a n x) : memGet? m x ≠ none := by
  obtain ⟨hlo, hhi⟩ := hx
  have hsome := h (x - a) (by omega)
  rw [Nat.add_sub_cancel' hlo] at hsome
  exact Option.isSome_iff_ne_none.mp hsome

/-- A loaded packet has every byte that its checksum test reads. -/
theorem PacketLoaded.ne_none_of_packetReads {m : Memory} {a n x : Nat} (h : PacketLoaded m a n) (hx : PacketReads m a x) :
    memGet? m x ≠ none := by
  obtain ⟨hlength, hbody, -⟩ := h
  rcases hx with rfl | ⟨l, hl, hx⟩
  · exact hlength.ne_none ⟨le_rfl, Nat.lt_succ_self _⟩
  · exact (hbody l hl).ne_none hx

/-- A loaded packet has every byte of its fixed fields. -/
theorem PacketLoaded.ne_none_of_field {m : Memory} {a n b k x : Nat} (h : PacketLoaded m a n) (hx : InRegion b k x)
    (hlo : a + 5 ≤ b) (hhi : b + k ≤ a + 5 + (n - 5)) : memGet? m x ≠ none := by
  obtain ⟨-, -, hfields⟩ := h
  obtain ⟨hbx, hxb⟩ := hx
  exact hfields.ne_none ⟨hlo.trans hbx, Nat.lt_of_lt_of_le hxb hhi⟩

/-- So a loaded packet has every byte of a transition that reads it and its fixed fields. -/
theorem PacketLoaded.ne_none {m : Memory} {a n x : Nat} (h : PacketLoaded m a n)
    (hx : PacketReads m a x ∨ (PacketPasses m a ∧ InRegion (a + 5) (n - 5) x)) : memGet? m x ≠ none := by
  rcases hx with hx | ⟨-, hx⟩
  · exact h.ne_none_of_packetReads hx
  · exact h.ne_none_of_field hx le_rfl le_rfl

/-- With its row of the table written, a transition reads no unwritten byte. -/
theorem TransitionLoaded.ne_none {m : Memory} {S : Session} {x : Nat} (h : TransitionLoaded m S.hsState)
    (hx : TransitionReads m S x) : memGet? m x ≠ none := by
  unfold TransitionReads at hx
  cases hst : S.hsState <;> rw [hst] at h hx
  case init => exact PacketLoaded.ne_none (a := 0x200) (n := 0x1C) h hx
  case identified =>
    obtain ⟨hkeys, hpacket⟩ : Written m 0x000 0x40 ∧ PacketLoaded m 0x400 0x21 := h
    rcases hx with hx | ⟨-, hx | hx⟩
    · exact hpacket.ne_none_of_packetReads hx
    · exact hkeys.ne_none hx
    · exact hpacket.ne_none_of_field hx (by decide) (by decide)
  case challenged =>
    obtain ⟨htables, hpacket⟩ : Written m 0x040 0x180 ∧ PacketLoaded m 0x600 0x2D := h
    rcases hx with hx | ⟨-, hx⟩ | ⟨-, -, hx | hx⟩
    · exact hpacket.ne_none_of_packetReads hx
    · exact hpacket.ne_none_of_field hx (by decide) (by decide)
    · exact htables.ne_none hx
    · exact hpacket.ne_none_of_field hx (by decide) (by decide)
  case responseReceived => exact PacketLoaded.ne_none (a := 0x800) (n := 0x15) h hx
  case verified1 => exact PacketLoaded.ne_none (a := 0xA00) (n := 0x15) h hx
  case responseVerified1 => exact Written.ne_none (a := 0x040) (n := 0x180) h hx
  case complete => exact hx.elim
  case failed => exact hx.elim

end Sys2Proof.Machine
end

section
/-! PROOFS. The statements of 43_handshake.md, by tier. -/

namespace Sys2Proof.Machine

/-! ## The verdict -/

/-- Settles O58: a step resets the session or makes transitions, and both keep the verdict consistent. -/
theorem stepKeepsVerdictConsistent : Obligations.StepKeepsVerdictConsistent := by
  intro s t hs h
  rcases step_session h with ⟨-, hreset⟩ | ⟨-, n, hrun⟩
  · rw [hreset]
    exact sessionInv_reset
  · exact runTransitions_keeps (fun _ _ => transition_keeps_sessionInv) hs hrun

/-! ## Terminal states -/

/-- Settles O10: no transition follows a terminal state. -/
theorem terminalStatesAreFinal : Obligations.TerminalStatesAreFinal := by
  intro s hs
  have hterm : hsTerminal s.session.hsState = true := by rcases hs with h | h <;> rw [h] <;> rfl
  refine ⟨exec_of_terminal (.inl rfl) hterm, exec_of_terminal (.inr rfl) hterm, fun i t hi h => ?_,
    fun op hop => busStep_keeps_session hop s⟩
  rcases exec_session h with ⟨rfl, -⟩ | ⟨-, n, hrun⟩
  · exact absurd rfl hi
  · rw [runTransitions_terminal hterm] at hrun
    exact (Except.ok.inj hrun).symm

/-! ## The six transitions -/

/-- Settles O36: T0 by its two ends. -/
theorem transitionFromInit : Obligations.TransitionFromInit := by
  intro s l body ck hst hp
  refine ⟨fun hsum => exec_hsstep_of_fail hst rfl ?_,
    fun b hsum hb => ⟨_, toList_normalizePacket _ b, exec_hsstep_of_pass hst rfl ?_⟩⟩
  · exact (transitionBody_init hst).trans (t0_eq_ok.mpr (.inl ⟨hp.packetOk_false hsum, rfl⟩))
  · exact (transitionBody_init hst).trans (t0_eq_ok.mpr (.inr ⟨hp.packetOk_true hsum, b, hb, rfl⟩))

/-- Settles O37: the session is written before the compare, so both of its ends have it. -/
theorem transitionFromIdentified : Obligations.TransitionFromIdentified := by
  intro s l body ck hst hp
  refine ⟨fun hsum => exec_hsstep_of_fail hst rfl ?_, ?_⟩
  · exact (transitionBody_identified hst).trans (t1_eq_ok.mpr (.inl ⟨hp.packetOk_false hsum, rfl⟩))
  · rintro c0 c1 c2 k1 k2 fsk0 fsk1 field hsum hct hk1 hk2 hfsk0 hfsk1 hfield _ _ _ rfl rfl rfl _ rfl
    have hbody : t1 Config.params s.dmem s.session = .ok _ := t1_eq_ok.mpr (.inr ⟨hp.packetOk_true hsum, _, hct, k1, hk1,
      fsk0, hfsk0, fsk1, hfsk1, k2, hk2, field, hfield, rfl⟩)
    rw [t1Session_config, mac_config] at hbody
    exact exec_hsstep_of_compare hst rfl ((transitionBody_identified hst).trans hbody)

/-- Settles O38: the checksum, then the nonce, then the ACR, each of which ends T2 where it is wrong. -/
theorem transitionFromChallenged : Obligations.TransitionFromChallenged := by
  intro s l body ck hst hp
  refine ⟨fun hsum => exec_hsstep_of_fail hst rfl ?_, ?_⟩
  · exact (transitionBody_challenged hst).trans (t2_eq_ok.mpr (.inl ⟨hp.packetOk_false hsum, rfl⟩))
  · intro c0 c1 c2 c3 hsum hct p0 p1 p2 p3 m h0 h1 h2 h3 hm
    have hpt : #v[p0, p1, p2, p3] = tcbcDec Config.params s.session.renc #v[c0, c1, c2, c3] :=
      vector_eq_of_toList (by simp [cbcDec, tripleDec_config, h0, h1, h2, h3])
    refine ⟨fun hne => exec_hsstep_of_fail hst rfl ((transitionBody_challenged hst).trans (t2_eq_ok.mpr (.inr
      ⟨hp.packetOk_true hsum, _, hct, _, hpt, .inl ⟨hne, rfl⟩⟩))), fun sbox ref field heq hsbox href hfield => ?_⟩
    have hbody : t2 Config.params s.dmem s.session = .ok _ := t2_eq_ok.mpr (.inr ⟨hp.packetOk_true hsum, _, hct, _, hpt, .inr
      ⟨heq, _, sessionAcr_eq_ok.mpr ⟨sbox, hsbox, ref, href, rfl⟩, field, hfield, rfl⟩⟩)
    rw [mac_config, acr_config] at hbody
    subst hm
    exact exec_hsstep_of_compare hst rfl ((transitionBody_challenged hst).trans hbody)

/-- Settles O39: the registers given byte by byte are those of the interchange, which is made before the checksum test. -/
theorem transitionFromResponseReceived : Obligations.TransitionFromResponseReceived := by
  intro s l body ck hst hp nonce usbr hnonce husbr
  obtain rfl : nonce = (interchange Config.params s.session).nonce :=
    vector_eq_of_toList (hnonce.trans (toList_interchange_nonce _ _).symm)
  obtain rfl : usbr = (interchange Config.params s.session).usbr := by
    apply vector_eq_of_toList
    rw [husbr]
    cases hx : Config.params.xchg with
    | swap => exact (toList_interchange_usbr_swap hx _).symm
    | copy => rw [interchange_usbr_copy hx]
  refine ⟨fun hsum => exec_hsstep_of_fail hst rfl ?_, ?_⟩
  · rw [← interchange_eq]
    exact (transitionBody_responseReceived hst).trans (t3_eq_ok.mpr (.inl ⟨hp.packetOk_false hsum, rfl⟩))
  · rintro c field salt hsum hc hfield hsalt _ rfl _ rfl
    obtain rfl := eq_saltInc_of_be64 hsalt
    have hbody : t3 Config.params s.dmem s.session = .ok _ := t3_eq_ok.mpr (.inr ⟨hp.packetOk_true hsum, _,
      memReadBlocks_one hc, field, hfield, rfl⟩)
    rw [saltedMac_config, interchange_chash, lo8_interchange_nonce, t3Session_config] at hbody
    exact exec_hsstep_of_compare hst rfl ((transitionBody_responseReceived hst).trans hbody)

/-- Settles O40: expected ACR and salt are written before the compare. -/
theorem transitionFromVerified : Obligations.TransitionFromVerified := by
  intro s l body ck hst hp
  refine ⟨fun hsum => exec_hsstep_of_fail hst rfl ?_, ?_⟩
  · exact (transitionBody_verified1 hst).trans (t4_eq_ok.mpr (.inl ⟨hp.packetOk_false hsum, rfl⟩))
  · rintro c field salt hsum hc hfield hsalt _ rfl _ rfl
    obtain rfl := eq_saltInc_of_be64 hsalt
    have hbody : t4 Config.params s.dmem s.session = .ok _ := t4_eq_ok.mpr (.inr ⟨hp.packetOk_true hsum, _,
      memReadBlocks_one hc, field, hfield, rfl⟩)
    rw [saltedMac_config, t4Session, tcbcDec_zero_config] at hbody
    exact exec_hsstep_of_compare hst rfl ((transitionBody_verified1 hst).trans hbody)

/-- Settles O41: T5 is one compare. -/
theorem transitionFromResponseVerified : Obligations.TransitionFromResponseVerified := by
  intro s sbox ref hst hsbox href
  exact exec_hsstep_of_compare hst rfl ((transitionBody_responseVerified1 hst).trans (t5_eq_ok.mpr
    ⟨_, sessionAcr_eq_ok.mpr ⟨sbox, hsbox, ref, href, rfl⟩, rfl⟩))

/-! ## HSRUN -/

/-- Settles O42: every transition of the run reads written bytes only, and 6 of them reach a terminal state. -/
theorem hsrunReachesTerminalState : Obligations.HsrunReachesTerminalState := by
  intro s hc hf hload
  have hreads := runTransitions_reads True (transitionsLeft_le s.session.hsState)
  obtain ⟨S, hS⟩ := hreads.exists_ok fun x ⟨n, T, _, hx⟩ => (hload (T n).hsState).ne_none hx
  have hend := hsTerminal_of_runTransitions (transitionsLeft_le _) hS
  exact ⟨S, hsTerminal_eq_true_iff.mp hend,
    (exec_hsrun_eq_next (hsTerminal_eq_false_iff.mpr ⟨hc, hf⟩)).mpr ⟨S, hS, rfl⟩⟩

/-- Settles O43: the run of HSRUN and the chain of HSSTEPs make the same transitions, and 6 are fuel enough for any chain. -/
theorem hsrunIsRepeatedHsstep : Obligations.HsrunIsRepeatedHsstep := by
  constructor
  · intro s t hc hf h
    have hterm := hsTerminal_eq_false_iff.mpr ⟨hc, hf⟩
    obtain ⟨S, hS, rfl⟩ := (exec_hsrun_eq_next hterm).mp h
    have hend := hsTerminal_of_runTransitions (transitionsLeft_le _) hS
    obtain ⟨k, T, hk, hchain, rfl⟩ := hsstepChain_of_runTransitions hS
    refine ⟨k, T, Nat.one_le_iff_ne_zero.mpr ?_, hk, rfl, hsTerminal_eq_true_iff.mp hend, hchain⟩
    rintro rfl
    rw [hchain.1, hterm] at hend
    cases hend
  · intro s n T hn hchain hend
    obtain ⟨n, rfl⟩ := Nat.exists_eq_succ_of_ne_zero (Nat.one_le_iff_ne_zero.mp hn)
    obtain ⟨-, hterm, -⟩ := hsstepChain_succ_iff.mp hchain
    exact (exec_hsrun_eq_next hterm).mpr
      ⟨_, runTransitions_of_hsstepChain hchain (hsTerminal_eq_true_iff.mpr hend) (transitionsLeft_le _), rfl⟩

/-! ## The order of the states -/

/-- Settles O44: the code only rises along the transitions of a step. -/
theorem sequencerNeverGoesBack : Obligations.SequencerNeverGoesBack := by
  refine ⟨fun s t h => ?_, fun s t hc hf h => ?_⟩
  · rcases step_session h with ⟨hnext, hreset⟩ | ⟨hnext, n, hrun⟩
    · exact ⟨fun hne => absurd hnext hne, fun _ => hreset⟩
    · have hle := runTransitions_keeps (I := fun S => (hsStateBits s.session.hsState).toNat ≤ (hsStateBits S.hsState).toNat)
        (fun _ _ hterm hS hT => hS.trans (hsStateBits_le_transition hterm hT)) le_rfl hrun
      exact ⟨fun _ => hle, fun hr => absurd hr hnext⟩
  · exact hsStateBits_transition (hsTerminal_eq_false_iff.mpr ⟨hc, hf⟩) ((exec_hsstep_session_iff ⟨hc, hf⟩).mp ⟨t, h, rfl⟩)

/-! ## HSRST -/

/-- Settles O35: by evaluation. -/
theorem hsrstZeroesSession : Obligations.HsrstZeroesSession := ⟨by decide, fun _ => rfl⟩

end Sys2Proof.Machine
end

-- The statements of 60_exceptions.md: laws, then the settlements
section
/-! SUPPORT. The checks that a command makes before anything else, the command errors they raise, how a pending command ends, and
the interrupt level. -/

namespace Sys2Proof.Machine

/-! ## The checks of a command (60_exceptions.md R262, steps 3 and 4) -/

/-- Step 3 of R262: the length check of the commands that read LEN. -/
def lenCheck (i : Instr) (s : State) : Except Abort Unit := if readsLen i then checkLen s.len.toNat else .ok ()

theorem lenCheck_eq_ok_iff {i : Instr} {s : State} : lenCheck i s = .ok () ↔ (readsLen i = true → s.len.toNat % 8 = 0) := by
  unfold lenCheck
  split
  · next hi => rw [checkLen_eq_ok, forall_prop_of_true hi]
  · next hi => exact iff_of_true rfl fun h => absurd h hi

/-- Every command's body makes the length check, then the range check of its operand regions, then the rest; a handshake command
has no operands, so both pass at once. -/
theorem commandBody_eq_checks (i : Instr) (s : State) : ∃ rest : Except Abort State,
    commandBody i s = (lenCheck i s >>= fun _ => checkRange (operandRegions i s) >>= fun _ => rest) := by
  cases i <;> exact ⟨_, rfl⟩

/-- A command whose body raises a command error takes it (60_exceptions.md R261). -/
theorem exec_of_commandError {i : Instr} {s : State} {e : ErrCode} (h : commandBody i s = .error (.cmdError e)) :
    exec i s = .next (errorState e s) := by
  rw [exec_eq_finish, h]
  rfl

/-- E_LEN comes before E_RANGE: the regions are not looked at. -/
theorem commandBody_of_len_error {i : Instr} {s : State} (hi : readsLen i = true) (hlen : s.len.toNat % 8 ≠ 0) :
    commandBody i s = .error (.cmdError .len) := by
  obtain ⟨rest, hbody⟩ := commandBody_eq_checks i s
  have hcheck : lenCheck i s = .error (.cmdError .len) := by
    rw [lenCheck, if_pos hi]
    exact checkLen_eq_error.mpr ⟨rfl, hlen⟩
  rw [hbody, hcheck, error_bind]

/-- With a legal length, an operand region that does not fit raises E_RANGE. -/
theorem commandBody_of_range_error {i : Instr} {s : State} (hlen : readsLen i = true → s.len.toNat % 8 = 0)
    (hregion : ∃ r ∈ operandRegions i s, 4096 < r.1 + r.2) : commandBody i s = .error (.cmdError .range) := by
  obtain ⟨rest, hbody⟩ := commandBody_eq_checks i s
  have hcheck : checkRange (operandRegions i s) = .error (.cmdError .range) := checkRange_eq_error.mpr ⟨rfl, hregion⟩
  rw [hbody, lenCheck_eq_ok_iff.mpr hlen, ok_bind, hcheck, error_bind]

/-- CKSUM tests its second region once the first has let it read the length byte (40_packet.md R121). -/
theorem cksumBody_of_range_error {s : State} {l : Byte} (hfirst : s.src.toNat + 5 ≤ 4096)
    (hl : memGet? s.dmem (s.src.toNat + 4) = some l) (hsecond : 4096 < s.src.toNat + 6 + l.toNat) :
    cksumBody s = .error (.cmdError .range) := by
  have hcheck : checkRange [(s.src.toNat, 5)] = .ok () := checkRange_eq_ok.mpr (by simpa [dmemSize] using hfirst)
  have hread : memReadByte s.dmem (s.src.toNat + 4) = .ok l := memReadByte_eq_ok.mpr hl
  have hcheck' : checkRange [(s.src.toNat, 6 + l.toNat)] = .error (.cmdError .range) :=
    checkRange_eq_error.mpr ⟨rfl, _, List.mem_singleton_self _, by rw [dmemSize]; omega⟩
  simp only [cksumBody, srcAddr, hcheck, ok_bind, hread, hcheck', error_bind]

/-! ## The end of a pending command (60_exceptions.md R261, R264) -/

/-- The engine's turn with a command pending ends it in one of two ways: its effect on DMEM, the session and RESULT with the
completion, or an error with a code and nothing else. -/
theorem engineStep_pending {s t : State} (hb : s.status.busy = true) (h : engineStep s = .next t) :
    (∃ m S r, t = complete (withDmem m (withSession S (withResult r s)))) ∨ ∃ e, e ≠ ErrCode.none ∧ t = takeError e s := by
  rcases engineStep_eq_next h with ⟨hidle, -⟩ | ⟨-, ⟨i, -, hi⟩ | ⟨-, rfl⟩⟩
  · rw [hb] at hidle
    cases hidle
  · exact (exec_effect hi).imp_left fun ⟨m, S, r, ht, _⟩ => ⟨m, S, r, ht⟩
  · exact .inr ⟨.illegal, by decide, rfl⟩

/-! ## The interrupt level (60_exceptions.md R266) -/

theorem irq_eq_true_iff {s : State} : irq s = true ↔ s.ie = true ∧ s.status.done = true := Bool.and_eq_true_iff

theorem irq_of_done {s : State} (h : s.status.done = true) : irq s = s.ie := by rw [irq, h, Bool.and_true]

theorem irq_of_not_done {s : State} (h : s.status.done = false) : irq s = false := by rw [irq, h, Bool.and_false]

/-- A pending command that ends, in whichever way, sets DONE and leaves IE. -/
theorem engineStep_pending_done {s t : State} (hb : s.status.busy = true) (h : engineStep s = .next t) :
    t.status.done = true ∧ t.ie = s.ie := by
  rcases engineStep_pending hb h with ⟨m, S, r, rfl⟩ | ⟨e, -, rfl⟩
  · exact ⟨rfl, rfl⟩
  · exact ⟨rfl, rfl⟩

end Sys2Proof.Machine
end

section
/-! PROOFS. The statements of 60_exceptions.md, by tier. -/

namespace Sys2Proof.Machine

/-! ## The end of a command -/

/-- Settles O6: ERR and ERRCODE of a pending command are clear, so they are set after it only by an error. -/
theorem engineStepCompletes : Obligations.EngineStepCompletes := by
  intro s t hs hb h
  obtain ⟨-, herr, hresult, hcode⟩ := hs.1 hb
  rcases engineStep_pending hb h with ⟨m, S, r, rfl⟩ | ⟨e, he, rfl⟩
  · exact ⟨rfl, rfl, .inl ⟨herr, hcode⟩, rfl, rfl⟩
  · exact ⟨rfl, rfl, .inr ⟨rfl, he, hresult⟩, rfl, rfl⟩

/-- Settles O7: a completion leaves ERR as it was, so ERR is set only by an error, which writes its report alone. -/
theorem commandErrorChangesOnlyReport : Obligations.CommandErrorChangesOnlyReport := by
  intro s t hb herr h hterr
  rcases engineStep_pending hb h with ⟨m, S, r, rfl⟩ | ⟨e, -, rfl⟩
  · have hkept : s.status.err = true := hterr
    rw [herr] at hkept
    cases hkept
  · rfl

/-! ## The checks -/

/-- Settles O9: the check of the operand regions, and CKSUM's second. -/
theorem rangeErrors : Obligations.RangeErrors :=
  ⟨fun _ _ hlen hregion => exec_of_commandError (commandBody_of_range_error hlen hregion),
    fun _ _ hfirst hl hsecond => exec_of_commandError (i := .cksum) (cksumBody_of_range_error hfirst hl hsecond)⟩

/-! ## The interrupt level -/

/-- Settles O55: what each event does to IE and DONE. -/
theorem interruptLevel : Obligations.InterruptLevel := by
  refine ⟨fun s => irq_eq_true_iff, fun s t hb h => ?_, fun s hdone => ?_, fun s w hw => ?_, fun s w hb => ?_,
    fun s => ⟨irq_of_not_done rfl, irq_of_not_done rfl⟩⟩
  · obtain ⟨hdone, hie⟩ := engineStep_pending_done hb h
    exact ⟨hdone, (irq_of_done hdone).trans hie⟩
  · obtain ⟨-, hwrite, -⟩ := ctrlReadsAndWrites s 1
    rw [hwrite rfl]
    exact irq_eq_true_iff.mpr ⟨rfl, hdone⟩
  · obtain ⟨-, hwrite⟩ := statusReadsAndClears s w
    rw [hwrite]
    exact irq_of_not_done (by simp [hw])
  · obtain ⟨haccept, -, -⟩ := cmdWriteStartsCommand s w
    rw [haccept hb]
    exact irq_of_not_done rfl

/-! ## The length check -/

/-- Settles O8: the length check comes first. -/
theorem lengthErrors : Obligations.LengthErrors := fun _ _ hi hlen => exec_of_commandError (commandBody_of_len_error hi hlen)

end Sys2Proof.Machine
end

-- The statement of 70_reset_and_hazards.md: laws, then the settlement
section
/-! SUPPORT. What the table of R293 asks for covers what a command reads. -/

namespace Sys2Proof.Machine

/-- The bytes that the table asks for before CKSUM are those of a packet with no fixed fields. -/
theorem LoadedFor.packetLoaded {s : State} (h : LoadedFor .cksum s) : PacketLoaded s.dmem s.src.toNat 5 := by
  obtain ⟨hlength, hbody⟩ := h
  exact ⟨hlength, hbody, fun i hi => absurd hi (Nat.not_lt_zero i)⟩

/-- With its row of the table written, a command reads no unwritten byte (70_reset_and_hazards.md R293). -/
theorem LoadedFor.ne_none {i : Instr} {s : State} {x : Nat} (h : LoadedFor i s) (hx : CommandReads i s x) :
    memGet? s.dmem x ≠ none := by
  cases i with
  | cksum =>
    have hpacket : PacketReads s.dmem s.src.toNat x := Or.imp_right (fun ⟨l, hl, _, hbody⟩ => ⟨l, hl, hbody⟩) hx
    exact h.packetLoaded.ne_none_of_packetReads hpacket
  | norm => exact Written.ne_none h hx
  | blkD | blkE | tcbcD | tcbcE | macV | macG =>
    obtain ⟨hkey, hsrc⟩ := h
    exact Or.elim hx hkey.ne_none hsrc.ne_none
  | macVS | macGS =>
    obtain ⟨hkey, hsrc, haux⟩ := h
    rcases hx with hx | hx | hx
    · exact hkey.ne_none hx
    · exact hsrc.ne_none hx
    · exact haux.ne_none hx
  | acr =>
    obtain ⟨hsrc, hkey, haux, htables⟩ := h
    rcases hx with hx | hx | hx | hx
    · exact hsrc.ne_none hx
    · exact hkey.ne_none hx
    · exact haux.ne_none hx
    · exact htables.ne_none hx
  | hsrst => exact False.elim hx
  | hsstep => exact TransitionLoaded.ne_none h hx
  | hsrun =>
    obtain ⟨n, S, -, hx⟩ := hx
    exact (h (S n).hsState).ne_none hx

end Sys2Proof.Machine
end

section
/-! PROOFS. The statement of 70_reset_and_hazards.md. -/

namespace Sys2Proof.Machine

/-- Settles O13: a command stops only on an unwritten byte that it reads (20_memory.md R65), and with its row of the table written
it reads none. -/
theorem loadedCommandsComplete : Obligations.LoadedCommandsComplete := by
  intro i s hload
  obtain ⟨hrefused, hfault⟩ := commandsStopOnlyOnUnwrittenBytes.1 i s
  cases hexec : exec i s with
  | next t => exact ⟨t, rfl⟩
  | fault f =>
    obtain ⟨a, hread, -, hnone, -⟩ := hfault f hexec
    exact absurd hnone (hload.ne_none hread)
  | refused r => exact absurd hexec (hrefused r)

end Sys2Proof.Machine
end
